-- ==== Sys2Proof/Word.lean ====
section
/-! DEFINITION. The data the block moves: bytes, messages, identities, and the indices that name an
entry, a counter or an offset of the persisted region (00_scope.md R5, R8, R13, R14). -/

namespace Sys2Proof

/-- An unsigned 8-bit value (00_scope.md R13). -/
abbrev Byte := BitVec 8

/-- A message `m[0] .. m[9]`, the first received byte first (00_scope.md R5 `MSG_LEN = 10`, R14). -/
abbrev Message := Vector Byte 10

/-- A RemoteIdentity: six opaque bytes, never read as a number (00_scope.md R8 `ID_LEN = 6`,
20_memory.md R66). -/
abbrev Identity := Vector Byte 6

/-- The index of a pairing entry, 0 to 5 (00_scope.md R8 `CAP = 6`). -/
abbrev EntryIndex := Fin 6

/-- The index of a diagnostic counter, 0 to 3 (10_state.md R34). -/
abbrev CounterIndex := Fin 4

/-- An offset of the persisted region, 0 to 48: `STORE_LEN = 1 + 6*8 = 49` (00_scope.md R8). An offset
above 48 is never issued (20_memory.md R64), so none can be written down. -/
abbrev Offset := Fin 49

/-- The six entry indices in ascending order. -/
def entryIndices : List EntryIndex := [0, 1, 2, 3, 4, 5]

/-- The 49 offsets of the region in ascending order. -/
def allOffsets : List Offset := List.finRange 49

end Sys2Proof
end

