-- ==== Sys2Proof/Config.lean ====
section
/-! DEFINITION. The configuration record `cfg` of 00_scope.md R10, its reference value, when it is well
formed, and the one value the spec leaves unspecified (`buf` after a reset). -/

namespace Sys2Proof

/-- What is done about byte 0 of a packet (00_scope.md R7, 92_eei_decisions.md D13). -/
inductive SentinelMode
  /-- Byte 0 is not checked. -/
  | off
  /-- A byte 0 other than `SENTINEL` discards the packet. -/
  | strict
  /-- As `strict`, but a byte 0 equal to `SENTINEL_ALT` is repaired. -/
  | recover
deriving DecidableEq, Repr

/-- Width of the field `duration_units` of an edge word, bits 15:0 (30_encoding.md R91). It is the format's,
the same in every configuration (assumption 4). -/
def edgeFieldWidth : Nat := 16

/-- The static configuration, "selected at construction" and written by no operation (00_scope.md R10,
10_state.md R33): its ten fields in the order of R10. -/
structure Config where
  shortMin : Nat
  shortLim : Nat
  longMinEx : Nat
  longLim : Nat
  sentinel : Byte
  sentinelAlt : Byte
  sentinelMode : SentinelMode
  storeBase : Nat
  /-- `DUR_W`, the width of the duration that the Edge Timer delivers (00_scope.md R9, 92_eei_decisions.md
  D4). The classifier takes a duration of any size (assumption 4). -/
  durWidth : Nat
  cntWidth : Nat
deriving DecidableEq, Repr

/-- `trunc_8({SENTINEL[6:0], 1})`: the byte 0 that a frame shows after losing one leading pulse
(30_encoding.md R104). -/
def Config.shiftedSentinel (sentinel : Byte) : Byte :=
  (sentinel.extractLsb' 0 7).concat true

/-- The reference configuration `cfg_ref` (00_scope.md R10). -/
def Config.ref : Config where
  shortMin := 6
  shortLim := 11
  longMinEx := 20
  longLim := 28
  sentinel := 0xF6
  sentinelAlt := 0xED
  sentinelMode := .recover
  storeBase := 0
  durWidth := 16
  cntWidth := 16

/-- `0 < SHORT_MIN < SHORT_LIM <= LONG_MIN_EX + 1 < LONG_LIM` (00_scope.md R6, 92_eei_decisions.md D7). -/
abbrev Config.wf (cfg : Config) : Prop :=
  0 < cfg.shortMin ∧ cfg.shortMin < cfg.shortLim ∧ cfg.shortLim ≤ cfg.longMinEx + 1 ∧
    cfg.longMinEx + 1 < cfg.longLim

/-- The byte that `buf` holds at an index after the `n`-th reset: unspecified, "each byte any value"
(10_state.md R44, 93_implementation_defined.md U1). It has no body, so nothing can be proved of it
(assumption 2). -/
opaque Config.freeBufferByte : Nat → Nat → Byte

end Sys2Proof
end

