-- ==== Sys2Proof/Syntax.lean ====
section
/-! DEFINITION. The 14 operations and 5 reserved codes of spec/opcode_table.json, one constructor a row, and
the ports and port words that present them (30_encoding.md R90 to R98). -/

namespace Sys2Proof

/-- A line level, `HIGH = 1` and `LOW = 0` (00_scope.md R18). -/
inductive Level
  | low
  | high
deriving DecidableEq, Repr

/-- The input ports that present a step (30_encoding.md R90). -/
inductive Port
  | edge
  | command
  | timer
  | reset
deriving DecidableEq, Repr

/-- A word standing at an input port: format E, C, T or P (30_encoding.md R91, R92, R97). Each has one
fixed length (R112). -/
inductive PortWord
  | edge (w : BitVec 17)
  | command (w : BitVec 84)
  | timer (w : BitVec 1)
  | reset (w : BitVec 1)
deriving DecidableEq, Repr

/-- The port a word stands at. -/
def PortWord.port : PortWord → Port
  | .edge _ => .edge
  | .command _ => .command
  | .timer _ => .timer
  | .reset _ => .reset

/-- The operations of the block (30_encoding.md R95, R96), and the reserved operation codes (R98), which
answer `ok = 0` (43_system.md R234). Operand bits a row does not name are ignored, so they are no operand. -/
inductive Instr
  /-- `EDGE(d, l)`: one line transition, `d` ticks after the last one, to level `l`. -/
  | edge (d : Nat) (l : Level)
  | setup
  | poll
  | take
  | wait
  /-- `RDCNT k`, `k = arg[1:0]`. -/
  | rdcnt (k : BitVec 2)
  | rdstat
  | rload
  /-- `LOOKUP m`. -/
  | lookup (m : Message)
  /-- `ADD m`. -/
  | add (m : Message)
  /-- `LEARN t`, `t = arg[15:0]`, a timeout the block does not interpret. -/
  | learn (t : BitVec 16)
  | erase
  | tmo
  | rst
  | reserved0
  | reserved7
  | reservedD
  | reservedE
  | reservedF
deriving DecidableEq, Repr

/-- The port of each operation (30_encoding.md R95). -/
def Instr.port : Instr → Port
  | .edge _ _ => .edge
  | .setup => .command
  | .poll => .command
  | .take => .command
  | .wait => .command
  | .rdcnt _ => .command
  | .rdstat => .command
  | .rload => .command
  | .lookup _ => .command
  | .add _ => .command
  | .learn _ => .command
  | .erase => .command
  | .tmo => .timer
  | .rst => .reset
  | .reserved0 => .command
  | .reserved7 => .command
  | .reservedD => .command
  | .reservedE => .command
  | .reservedF => .command

end Sys2Proof
end

