-- ==== Sys2Proof/WellFormed.lean ====
section
/-! DEFINITION. Which operations a port word can present. The only operand whose type is wider than its
field is the duration of an `EDGE`. -/

namespace Sys2Proof

/-- An operation is well formed when its operands fit their fields: `duration_units` has 16 bits
(30_encoding.md R91); every other operand's type is its field. -/
def Instr.wf : Instr → Bool
  | .edge d _ => decide (d < 2 ^ edgeFieldWidth)
  | .setup => true
  | .poll => true
  | .take => true
  | .wait => true
  | .rdcnt _ => true
  | .rdstat => true
  | .rload => true
  | .lookup _ => true
  | .add _ => true
  | .learn _ => true
  | .erase => true
  | .tmo => true
  | .rst => true
  | .reserved0 => true
  | .reserved7 => true
  | .reservedD => true
  | .reservedE => true
  | .reservedF => true

end Sys2Proof
end

