-- ==== Sys2Proof/Decode.lean ====
section
/-! DEFINITION. Decoding of port words (30_encoding.md R91, R92, R95 to R98, R112), then the encoder written
from the same formats, then the opcode table's numbering of a word. -/

namespace Sys2Proof

/-- Why a port word presents no operation. -/
inductive DecodeError
  /-- A strobe at 0: format T and P present a step only at the value 1 (30_encoding.md R97). -/
  | strobeNotAsserted (port : Port)
  /-- No row of the operation-code table of 30_encoding.md R95 and R98. Unreachable: all 16 codes
  are listed. -/
  | unlistedOpcode (op : Nat)
deriving DecidableEq, Repr

/-- A line level from its bit (30_encoding.md R91: 1 = HIGH, 0 = LOW). -/
def levelOfBit (b : Bool) : Level := if b then .high else .low

/-- The bit of a line level. -/
def bitOfLevel : Level → Bool
  | .low => false
  | .high => true

/-- The message in an 80-bit operand: `m[0] = arg[79:72]`, ..., `m[9] = arg[7:0]`
(00_scope.md R14, 30_encoding.md R96). -/
def messageOfBits (arg : BitVec 80) : Message :=
  Vector.ofFn fun i => arg.extractLsb' (72 - 8 * i.val) 8

/-- A message as one 80-bit number, `m[0]` in bits 79:72 (00_scope.md R14). -/
def messageBits (m : Message) : BitVec 80 :=
  m[0] ++ m[1] ++ m[2] ++ m[3] ++ m[4] ++ m[5] ++ m[6] ++ m[7] ++ m[8] ++ m[9]

/-- Format E: bit 16 is `level_after`, bits 15:0 are `duration_units`. No value is reserved
(30_encoding.md R91). -/
def decodeEdge (w : BitVec 17) : Instr :=
  .edge (w.extractLsb' 0 16).toNat (levelOfBit (w.getLsbD 16))

/-- The operation of each code, its operands taken from the fields of `arg` that 30_encoding.md R95 and
R96 name. Other bits of `arg` are ignored. -/
def decodeOp (op : BitVec 4) (arg : BitVec 80) : Except DecodeError Instr :=
  match op.toNat with
  | 0x0 => .ok .reserved0
  | 0x1 => .ok .setup
  | 0x2 => .ok .poll
  | 0x3 => .ok .take
  | 0x4 => .ok .wait
  | 0x5 => .ok (.rdcnt (arg.extractLsb' 0 2))
  | 0x6 => .ok .rdstat
  | 0x7 => .ok .reserved7
  | 0x8 => .ok .rload
  | 0x9 => .ok (.lookup (messageOfBits arg))
  | 0xA => .ok (.add (messageOfBits arg))
  | 0xB => .ok (.learn (arg.extractLsb' 0 16))
  | 0xC => .ok .erase
  | 0xD => .ok .reservedD
  | 0xE => .ok .reservedE
  | 0xF => .ok .reservedF
  | n => .error (.unlistedOpcode n)

/-- Format C: bits 83:80 are `op`, bits 79:0 are `arg` (30_encoding.md R92). -/
def decodeCommand (w : BitVec 84) : Except DecodeError Instr :=
  decodeOp (w.extractLsb' 80 4) (w.extractLsb' 0 80)

/-- The operation a port word presents, or why it presents none. -/
def decode : PortWord → Except DecodeError Instr
  | .edge w => .ok (decodeEdge w)
  | .command w => decodeCommand w
  | .timer w => if w = 1 then .ok .tmo else .error (.strobeNotAsserted .timer)
  | .reset w => if w = 1 then .ok .rst else .error (.strobeNotAsserted .reset)

/-- A duration as the field of an edge word holds it: 0xFFFF for 65535 ticks or more (30_encoding.md R91). -/
def edgeField (ticks : Nat) : Nat := min ticks (2 ^ edgeFieldWidth - 1)

/-- The quantisation the Edge Timer is taken to make, outside the block: whole 50 µs ticks
(30_encoding.md R105). -/
def ticksOfMicroseconds (us : Nat) : Nat := us / 50

/-- Format E of an edge. -/
def edgeWord (d : Nat) (l : Level) : BitVec 17 :=
  BitVec.ofBool (bitOfLevel l) ++ BitVec.ofNat 16 (edgeField d)

/-- What the Edge Timer delivers for a duration: a number of `DUR_W` bits, its largest for any longer duration
(00_scope.md R9, 92_eei_decisions.md D4; with `DUR_W = 16` the 0xFFFF of 30_encoding.md R91; assumption 4). -/
def presentedDuration (cfg : Config) (ticks : Nat) : Nat := min ticks (2 ^ cfg.durWidth - 1)

/-- The edge word the Edge Timer presents for a transition to level `l`, `ticks` after the last one. -/
def presentedEdge (cfg : Config) (ticks : Nat) (l : Level) : BitVec 17 :=
  edgeWord (presentedDuration cfg ticks) l

/-- Format C of a command. -/
def commandWord (op : BitVec 4) (arg : BitVec 80) : BitVec 84 := op ++ arg

/-- The port word of an operation, operand bits it does not name zero (30_encoding.md R91 to R97). -/
def encode : Instr → PortWord
  | .edge d l => .edge (edgeWord d l)
  | .setup => .command (commandWord 0x1 0)
  | .poll => .command (commandWord 0x2 0)
  | .take => .command (commandWord 0x3 0)
  | .wait => .command (commandWord 0x4 0)
  | .rdcnt k => .command (commandWord 0x5 (k.zeroExtend 80))
  | .rdstat => .command (commandWord 0x6 0)
  | .rload => .command (commandWord 0x8 0)
  | .lookup m => .command (commandWord 0x9 (messageBits m))
  | .add m => .command (commandWord 0xA (messageBits m))
  | .learn t => .command (commandWord 0xB (t.zeroExtend 80))
  | .erase => .command (commandWord 0xC 0)
  | .tmo => .timer 1
  | .rst => .reset 1
  | .reserved0 => .command (commandWord 0x0 0)
  | .reserved7 => .command (commandWord 0x7 0)
  | .reservedD => .command (commandWord 0xD 0)
  | .reservedE => .command (commandWord 0xE 0)
  | .reservedF => .command (commandWord 0xF 0)

/-- The port word that `nbits` bits `w` of the opcode table stand for. A word's length tells its port:
84 bits are format C, 17 bits format E, 1 bit a strobe (30_encoding.md R112), each rounded up to whole
bytes here. Formats T and P are the same single bit on two ports, which the length cannot tell apart;
the timer port is taken (assumption 9). -/
def tablePortWord (nbits w : Nat) : Option PortWord :=
  if nbits = 84 ∨ nbits = 88 then
    if w < 2 ^ 84 then some (.command (BitVec.ofNat 84 w)) else none
  else if nbits = 17 ∨ nbits = 24 then
    if w < 2 ^ 17 then some (.edge (BitVec.ofNat 17 w)) else none
  else if nbits = 1 ∨ nbits = 8 then
    if w < 2 then some (.timer (BitVec.ofNat 1 w)) else none
  else none

/-- The instruction the decoder reads from a word numbered as spec/opcode_table.json numbers it. -/
def decodeTableWord (nbits w : Nat) : Option Instr :=
  match tablePortWord nbits w with
  | none => none
  | some p => (decode p).toOption

end Sys2Proof
end

