-- ==== Sys2Proof/Machine/State.lean ====
section
/-! DEFINITION. The state of the block and of the agents around it, as plain data (10_state.md), the reasons
a step can stop, and the machine right after reset. -/

namespace Sys2Proof.Machine

/-- A pairing entry of the working copy (10_state.md R39). -/
structure Entry where
  identity : Identity
  switchId : Byte
  paired : Bool
deriving DecidableEq, Repr

/-- A response word, format R: `ok` and 80 bits of `data` (30_encoding.md R93). -/
structure Response where
  ok : Bool
  data : BitVec 80
deriving DecidableEq, Repr

/-- A store request, format S: `we`, `off` and `wdata`, zero on a read (30_encoding.md R94). -/
structure StoreRequest where
  we : Bool
  off : Offset
  wdata : Byte
deriving DecidableEq, Repr

/-- The external byte store: (address, byte) pairs in the canonical form of `Memory.wf`
(Machine/Ops.lean). Offset `a` of the region stands at address `STORE_BASE + a` (20_memory.md R63).
DESIGN CHOICE, unsafe: 20_memory.md R64 leaves the store's size open, and addresses here have no upper bound,
so the region lies inside the store for every `STORE_BASE` (assumption 16). -/
abbrev Memory := List Host.Cell

/-- Everything the spec gives the machine (10_state.md), the configuration it is built with, the two ends of
its ports, and the model's own counter of free values. -/
structure State where
  /-- The configuration `cfg`: no step writes it (10_state.md R33; assumption 3). -/
  cfg : Config
  /-- 10_state.md R21. -/
  packetStarted : Bool
  /-- 10_state.md R22. -/
  byteStarted : Bool
  /-- 10_state.md R23: 0 to 8, held in 4 bits. -/
  bitCount : BitVec 4
  /-- 10_state.md R24. -/
  byteAccum : Byte
  /-- 10_state.md R25: 0 to 10, held in 4 bits. -/
  bytesCollected : BitVec 4
  /-- 10_state.md R26, the message buffer `buf[0..9]`. -/
  buf : Message
  /-- 10_state.md R27. -/
  messageReady : Bool
  /-- 10_state.md R34, four counters of `CNT_W` bits, counting modulo `2^CNT_W`. -/
  cnt : Vector Nat 4
  /-- 10_state.md R36. -/
  learnPending : Bool
  /-- 10_state.md R38: 0 to 6, held in 3 bits. -/
  regCount : BitVec 3
  /-- 10_state.md R39, the entries of the working copy. -/
  ent : Vector Entry 6
  /-- 10_state.md R41. -/
  regCorrupt : Bool
  /-- 10_state.md R42, the persisted region `St[0..48]` in the external store. -/
  store : Memory
  /-- 10_state.md R43 (b): the consumer has issued a `WAIT` that has no response yet. The block keeps
  nothing of it (41_decoder.md R167); this is the consumer agent's own state. -/
  consumerWaiting : Bool
  /-- The port words the agents are still to present, in the one total order of 20_memory.md R71. -/
  inputs : List PortWord
  /-- The responses given on the response port, oldest first (30_encoding.md R90 (3)). -/
  responses : List Response
  /-- The requests made on the store port, oldest first (30_encoding.md R90 (4)). -/
  storeTrace : List StoreRequest
  /-- The `learn_timeout` of each `learn_start` pulse, oldest first (30_encoding.md R97). -/
  learnStarts : List (BitVec 16)
  /-- The model's own: how many resets have drawn a free `buf` (assumption 2). -/
  freeCount : Nat
deriving DecidableEq, Repr

/-- Why the machine stops with a fault: never. "The block has no fault mechanism"
(93_implementation_defined.md section introduction, 60_exceptions.md R262): a violation aborts the packet
and goes on, and an offset outside the region cannot be written down (`Offset`). Having no constructor
is safe: nothing can be excused by a fault. -/
inductive Fault
deriving DecidableEq, Repr

/-- Why the machine gives an instruction no meaning. -/
inductive Refusal
  /-- Raised by an arm of `exec` for an instruction that has no meaning yet; no arm raises it. Safe: it
  claims no effect. -/
  | notModelled (mnemonic : String)
deriving DecidableEq, Repr

/-- An entry with zero bytes and no pairing, as `RST` leaves it (10_state.md R44). -/
def Entry.empty : Entry where
  identity := Vector.replicate 6 0
  switchId := 0
  paired := false

/-- The machine right after reset (10_state.md R44), built with `cfg_ref`, nothing presented at its ports
and nothing listed in the store. `buf` is unspecified there; zeros stand for it (assumption 1). -/
def State.reset : State where
  cfg := Config.ref
  packetStarted := false
  byteStarted := false
  bitCount := 0
  byteAccum := 0
  bytesCollected := 0
  buf := Vector.replicate 10 0
  messageReady := false
  cnt := Vector.replicate 4 0
  learnPending := false
  regCount := 0
  ent := Vector.replicate 6 Entry.empty
  regCorrupt := false
  store := []
  consumerWaiting := false
  inputs := []
  responses := []
  storeTrace := []
  learnStarts := []
  freeCount := 0

end Sys2Proof.Machine
end

