-- ==== Sys2Proof/Machine/Operands.lean ====
section
/-! DEFINITION. The fields of a message, the addresses of an entry's bytes, and the layout of the words the
block puts on its output ports (30_encoding.md R93, R94, R96, R100, R110, R111; 20_memory.md R63). -/

namespace Sys2Proof.Machine

/-- `sw(m) = m[2]` (42_registry.md R190). -/
def switchIdOf (m : Message) : Byte := m[2]

/-- `id(m)[j] = m[4 + j]` (42_registry.md R190). -/
def identityOf (m : Message) : Identity := Vector.ofFn fun j => m[4 + j.val]

/-- `slot(i, k) = 1 + 8*i + k` (20_memory.md R63). -/
def slot (i : EntryIndex) (k : Fin 8) : Offset := ⟨1 + 8 * i.val + k.val, by omega⟩

/-- The external address of an offset (20_memory.md R63). -/
def storeAddress (cfg : Config) (a : Offset) : Nat := cfg.storeBase + a.val

/-- The counter `k` that `RDCNT` selects (30_encoding.md R109). -/
def counterIndex (k : BitVec 2) : CounterIndex := ⟨k.toNat, k.isLt⟩

/-- The entry that a message is stored as (42_registry.md R195). -/
def entryOfMessage (m : Message) : Entry where
  identity := identityOf m
  switchId := switchIdOf m
  paired := true

/-- Whether an entry matches a probe: paired, and equal in the switch id and in every identity byte
(42_registry.md R193). -/
def Entry.matchesProbe (e : Entry) (m : Message) : Bool :=
  e.paired && decide (e.switchId = switchIdOf m) && decide (e.identity = identityOf m)

/-- The eight bytes of an entry's slot with their offsets, ascending: identity, switch id, and the paired
flag, written 0x01 for true (42_registry.md R195, 30_encoding.md R99). -/
def slotWrites (i : EntryIndex) (m : Message) : List (Offset × Byte) :=
  [(slot i 0, m[4]), (slot i 1, m[5]), (slot i 2, m[6]), (slot i 3, m[7]), (slot i 4, m[8]),
   (slot i 5, m[9]), (slot i 6, switchIdOf m), (slot i 7, 0x01)]

/-- `zext_80(i)` of an entry index (30_encoding.md R111). -/
def indexData (i : EntryIndex) : BitVec 80 := BitVec.ofNat 80 i.val

/-- `zext_80(cnt[k])` (43_system.md R231). -/
def counterData (c : Nat) : BitVec 80 := BitVec.ofNat 80 c

/-- The status word: `data[3:0] = reg_count`, `data[4] = reg_corrupt`, `data[5] = message_ready`
(30_encoding.md R110). -/
def statusData (count : BitVec 3) (corrupt ready : Bool) : BitVec 80 :=
  0#74 ++ BitVec.ofBool ready ++ BitVec.ofBool corrupt ++ count.zeroExtend 4

/-- Format R: bit 80 is `ok`, bits 79:0 are `data` (30_encoding.md R93). -/
def Response.word (r : Response) : BitVec 81 := BitVec.ofBool r.ok ++ r.data

/-- Format S: bit 14 is `we`, bits 13:8 are `off`, bits 7:0 are `wdata` (30_encoding.md R94). -/
def StoreRequest.word (q : StoreRequest) : BitVec 15 :=
  BitVec.ofBool q.we ++ BitVec.ofNat 6 q.off.val ++ q.wdata

/-- A read request (30_encoding.md R94). -/
def readRequest (a : Offset) : StoreRequest := ⟨false, a, 0⟩

/-- A write request (30_encoding.md R94). -/
def writeRequest (a : Offset) (v : Byte) : StoreRequest := ⟨true, a, v⟩

end Sys2Proof.Machine
end

