-- ==== Sys2Proof/Machine/Flags.lean ====
section
/-! DEFINITION. What the flags say together (the decoder's phase), the violation categories, and the two
register updates that are arithmetic: the accumulator's shift and the counter's increment. -/

namespace Sys2Proof.Machine

/-- The decoder's phases (10_state.md R29). -/
inductive Phase
  | idle
  | packetStarted
  | byteInProgress
  | messageReady
deriving DecidableEq, Repr

/-- The phase, a function of three flags tested in this order (10_state.md R29). -/
def State.phase (s : State) : Phase :=
  if s.messageReady then .messageReady
  else if !s.packetStarted then .idle
  else if !s.byteStarted then .packetStarted
  else .byteInProgress

/-- The output wire `msg_ready` (30_encoding.md R97). -/
def State.msgReadyWire (s : State) : Bool := s.messageReady

/-- The violation categories (60_exceptions.md R250). -/
inductive Violation
  /-- V_SHORT_HIGH, code 0 (R251). -/
  | shortHigh
  /-- V_LONG_LOW, code 1 (R252). -/
  | longLow
  /-- V_BAND, code 2 (R253). -/
  | band
  /-- V_NOSTART, code 3 (R254). -/
  | noStart
deriving DecidableEq, Repr

/-- The code of a category, which is the index of its counter (60_exceptions.md R250). -/
def Violation.code : Violation → CounterIndex
  | .shortHigh => 0
  | .longLow => 1
  | .band => 2
  | .noStart => 3

/-- `trunc_CNT_W(c + 1)` (60_exceptions.md R255). -/
def counterNext (cfg : Config) (c : Nat) : Nat := (c + 1) % 2 ^ cfg.cntWidth

/-- `trunc_8({acc[6:0], b})`: shift left, the new bit into bit 0 (41_decoder.md R160). -/
def shiftByte (acc : Byte) (b : Bool) : Byte := (acc.extractLsb' 0 7).concat b

end Sys2Proof.Machine
end

