-- ==== Sys2Proof/Machine/Classifier.lean ====
section
/-! DEFINITION. The Bit Classifier (40_classifier.md): a pure function of an edge's duration and level. -/

namespace Sys2Proof.Machine

/-- The classifier's outcomes (40_classifier.md R130). -/
inductive PulseClass
  | ignore
  | shortPulse
  | longPulse
  | invalid (v : Violation)
deriving DecidableEq, Repr

/-- `CLASSIFY(d, l)`, its tests in the order of 40_classifier.md R130 and R137. -/
def classify (cfg : Config) (d : Nat) (l : Level) : PulseClass :=
  if d < cfg.shortMin then .ignore
  else if d < cfg.shortLim then
    match l with
    | .low => .shortPulse
    | .high => .invalid .shortHigh
  else if cfg.longMinEx < d ∧ d < cfg.longLim then
    match l with
    | .high => .longPulse
    | .low => .invalid .longLow
  else .invalid .band

end Sys2Proof.Machine
end

