-- ==== Sys2Proof/Machine/Ops.lean ====
section
/-! DEFINITION. The named operations over the store and the registers: memory reads and writes, responses,
raising a violation (the block's exception) and the actions on the decoder, and the shared bodies of the
registry operations. -/

namespace Sys2Proof.Machine

/-! ### The external byte store -/

/-- What a byte that no write has reached reads as. The spec leaves the initial content free
(20_memory.md R81) and names 0xFF as what an erased EEPROM commonly reads (assumption 5). -/
def Memory.unwritten : Byte := 0xFF

/-- The canonical form: addresses strictly rising, and no entry equal to what an unlisted address reads as. -/
abbrev Memory.wf (m : Memory) : Prop :=
  m.Pairwise (fun x y => x.1 < y.1) ∧ ∀ c ∈ m, c.2 ≠ Memory.unwritten

/-- The byte at an address. -/
def Memory.read : Memory → Nat → Byte
  | [], _ => Memory.unwritten
  | (b, u) :: rest, a => if a = b then u else Memory.read rest a

/-- Listing a byte in front of later entries, unless it is what an unlisted address reads as. -/
def Memory.insertFront (a : Nat) (v : Byte) (rest : Memory) : Memory :=
  if v = Memory.unwritten then rest else (a, v) :: rest

/-- The store after a byte is written, again in canonical form. -/
def Memory.write : Memory → Nat → Byte → Memory
  | [], a, v => Memory.insertFront a v []
  | (b, u) :: rest, a, v =>
    if a < b then Memory.insertFront a v ((b, u) :: rest)
    else if a = b then Memory.insertFront a v rest
    else (b, u) :: Memory.write rest a v

/-- `St[a]`, the current content of an offset (00_scope.md R16). -/
def State.storeByte (s : State) (a : Offset) : Byte := s.store.read (storeAddress s.cfg a)

/-- `MemRead(a, 1)` for each offset of a list, in order: a read has no effect but the request it makes on
the store port (20_memory.md R69); the bytes are `State.storeByte`. -/
def State.memReads (s : State) (as : List Offset) : State :=
  { s with storeTrace := s.storeTrace ++ as.map readRequest }

/-- `MemWrite(a, 1, v)` (00_scope.md R16). -/
def State.memWrite (s : State) (a : Offset) (v : Byte) : State :=
  { s with
    store := s.store.write (storeAddress s.cfg a) v
    storeTrace := s.storeTrace ++ [writeRequest a v] }

/-- A sequence of single-byte writes, in order (20_memory.md R68). -/
def State.memWrites (s : State) : List (Offset × Byte) → State
  | [] => s
  | (a, v) :: rest => (s.memWrite a v).memWrites rest

/-! ### Responses -/

/-- `respond(ok, data)` (00_scope.md R17). -/
def State.respond (s : State) (ok : Bool) (data : BitVec 80) : State :=
  { s with responses := s.responses ++ [⟨ok, data⟩] }

/-! ### Violations: the block's exceptions -/

/-- `bump(k)` (60_exceptions.md R255). -/
def State.bump (s : State) (k : CounterIndex) : State :=
  { s with cnt := s.cnt.set k (counterNext s.cfg s.cnt[k.val]) }

/-- `abort()`: back to phase `IDLE`; `buf` is not cleared (60_exceptions.md R256). -/
def State.abort (s : State) : State :=
  { s with
    packetStarted := false
    byteStarted := false
    bitCount := 0
    byteAccum := 0
    bytesCollected := 0 }

/-- Taking the exception, `raise Violation(k)`: `bump(k)` then `abort()`, and the step ends
(00_scope.md R17). It saves nothing and transfers control nowhere (60_exceptions.md R262); returning from
it needs no operation (R263). -/
def State.raiseViolation (s : State) (v : Violation) : State := (s.bump v.code).abort

/-! ### The decoder's actions -/

/-- `dec_init()` (41_decoder.md R168). -/
def State.decInit (s : State) : State :=
  { s with
    packetStarted := false
    byteStarted := false
    bitCount := 0
    byteAccum := 0
    bytesCollected := 0 }

/-- `start_packet()` (41_decoder.md R154). -/
def State.startPacket (s : State) : State :=
  { s with
    packetStarted := true
    byteStarted := false
    bitCount := 0
    byteAccum := 0
    bytesCollected := 0 }

/-- `start_byte()` (41_decoder.md R155). -/
def State.startByte (s : State) : State :=
  { s with byteStarted := true, bitCount := 0, byteAccum := 0 }

/-- `message_complete()` (41_decoder.md R164). -/
def State.messageComplete (s : State) : State :=
  { s with messageReady := true, packetStarted := false }

/-- `recover()` (41_decoder.md R163). -/
def State.recover (s : State) : State :=
  { s with
    buf := s.buf.set 0 s.cfg.sentinel
    bytesCollected := 1
    byteStarted := true
    bitCount := 0
    byteAccum := 0 }

/-- `first_byte_mismatch()` (41_decoder.md R162). -/
def State.firstByteMismatch (s : State) : State :=
  if s.cfg.sentinelMode = .recover ∧ s.byteAccum = s.cfg.sentinelAlt then s.recover else s.abort

/-- Storing the finished byte at its index. An index above 9 has no place in the buffer, so nothing is
written there; no run reaches one (10_state.md R30 (f); assumption 7). -/
def State.storeFinishedByte (s : State) : State :=
  { s with
    buf := s.buf.setIfInBounds s.bytesCollected.toNat s.byteAccum
    bytesCollected := s.bytesCollected + 1 }

/-- `complete_byte()` (41_decoder.md R161). -/
def State.completeByte (s : State) : State :=
  if s.bytesCollected = 0 ∧ s.cfg.sentinelMode ≠ .off ∧ s.byteAccum ≠ s.cfg.sentinel then
    s.firstByteMismatch
  else if s.storeFinishedByte.bytesCollected = 10 then s.storeFinishedByte.messageComplete
  else s.storeFinishedByte

/-- The accumulator and the bit count after a data bit (41_decoder.md R160). -/
def State.shiftBit (s : State) (b : Bool) : State :=
  { s with byteAccum := shiftByte s.byteAccum b, bitCount := s.bitCount + 1 }

/-- `shift_in(b)` (41_decoder.md R160). -/
def State.shiftIn (s : State) (b : Bool) : State :=
  if (s.shiftBit b).bitCount = 8 then { s.shiftBit b with byteStarted := false }.completeByte
  else s.shiftBit b

/-- The decoder's action on a classified edge, by phase (41_decoder.md R150, R152 to R159). -/
def State.onPulse (s : State) : PulseClass → State
  | .ignore => s
  | .invalid v => s.raiseViolation v
  | .shortPulse =>
    if !s.packetStarted then s.startPacket
    else if !s.byteStarted then s.startByte
    else s.shiftIn true
  | .longPulse =>
    if !s.packetStarted then s.raiseViolation .noStart
    else if !s.byteStarted then s.raiseViolation .noStart
    else s.shiftIn false

/-! ### The registry's shared bodies -/

/-- The entry persisted in slot `i`; any non-zero flag byte reads as true (42_registry.md R191,
30_encoding.md R99). -/
def State.storedEntry (s : State) (i : EntryIndex) : Entry where
  identity := Vector.ofFn fun j => s.storeByte (slot i (j.castLE (by decide)))
  switchId := s.storeByte (slot i 6)
  paired := decide (s.storeByte (slot i 7) ≠ 0)

/-- The persisted count above the capacity: the corrupted-store condition (42_registry.md R192). -/
def State.storedCountCorrupt (s : State) : Bool := decide (6 < (s.storeByte 0).toNat)

/-- The persisted count, clamped to the capacity (42_registry.md R191, R192). -/
def State.storedCount (s : State) : BitVec 3 :=
  if s.storedCountCorrupt then 6 else (s.storeByte 0).setWidth 3

/-- The body of `RLOAD` without its response: 49 reads in ascending order, and the working copy replaced
(42_registry.md R191, R205). -/
def State.reload (s : State) : State :=
  { s.memReads allOffsets with
    regCount := s.storedCount
    regCorrupt := s.storedCountCorrupt
    ent := Vector.ofFn s.storedEntry }

/-- The index of the first present, paired entry equal to the probe (42_registry.md R193). -/
def State.lookupIndex (s : State) (m : Message) : Option EntryIndex :=
  entryIndices.find? fun i => decide (i.val < s.regCount.toNat) && s.ent[i.val].matchesProbe m

/-- The registry after an entry is appended at index `i`: the entry, its slot, then the count
(42_registry.md R195). -/
def State.appendAt (s : State) (i : EntryIndex) (m : Message) : State :=
  ({ { s with ent := s.ent.set i (entryOfMessage m) }.memWrites (slotWrites i m) with
      regCount := BitVec.ofNat 3 (i.val + 1) }).memWrite 0 (BitVec.ofNat 8 (i.val + 1))

/-- `ADD m` with its response (42_registry.md R195, R196). A count of 7, which no run reaches, counts as
full (assumption 7). -/
def State.addMessage (s : State) (m : Message) : State :=
  if h : s.regCount.toNat < 6 then (s.appendAt ⟨_, h⟩ m).respond true (indexData ⟨_, h⟩)
  else s.respond false 0

/-- `learn_fire()`: take the message, end the learn, append it and respond (42_registry.md R199). -/
def State.learnFire (s : State) : State :=
  State.addMessage { { s with messageReady := false }.decInit with learnPending := false } s.buf

/-- The learn hook at the end of an `EDGE` step (41_decoder.md R165). -/
def State.learnHook (s : State) : State :=
  if s.learnPending && s.messageReady then s.learnFire else s

end Sys2Proof.Machine
end

