-- ==== Sys2Proof/Machine/Decoder.lean ====
section
/-! DEFINITION. The Message Decoder's operations: EDGE, POLL, WAIT, TAKE (41_decoder.md). -/

namespace Sys2Proof.Machine

/-- `EDGE(d, l)` (41_decoder.md R150): dropped while a message is ready (R151); else classified, acted on by
phase, and a pending learn fires if the step completed a message (R165). -/
def execEdge (d : Nat) (l : Level) (s : State) : Host.Outcome State Fault Refusal :=
  if s.messageReady then .next s
  else .next (s.onPulse (classify s.cfg d l)).learnHook

/-- `POLL` (41_decoder.md R166). -/
def execPoll (s : State) : Host.Outcome State Fault Refusal :=
  .next (s.respond s.messageReady 0)

/-- `WAIT` (41_decoder.md R167): it responds once a message is ready; until then the consumer stays waiting
and the block's own state is as it was. -/
def execWait (s : State) : Host.Outcome State Fault Refusal :=
  if s.messageReady then .next { s.respond true 0 with consumerWaiting := false }
  else .next { s with consumerWaiting := true }

/-- `TAKE` (41_decoder.md R168): an atomic test-and-clear of `message_ready` with a read of `buf`. -/
def execTake (s : State) : Host.Outcome State Fault Refusal :=
  if s.messageReady then
    .next (State.respond { s with messageReady := false }.decInit true (messageBits s.buf))
  else .next (s.respond false 0)

end Sys2Proof.Machine
end

