-- ==== Sys2Proof/Machine/Registry.lean ====
section
/-! DEFINITION. The Pairing Registry's operations: RLOAD, LOOKUP, ADD, LEARN, TMO, ERASE (42_registry.md). -/

namespace Sys2Proof.Machine

/-- `RLOAD` (42_registry.md R191, R192). -/
def execRload (s : State) : Host.Outcome State Fault Refusal :=
  .next (s.reload.respond true 0)

/-- `LOOKUP m` (42_registry.md R193): the first match's index, read from the working copy. -/
def execLookup (m : Message) (s : State) : Host.Outcome State Fault Refusal :=
  match s.lookupIndex m with
  | some i => .next (s.respond true (indexData i))
  | none => .next (s.respond false 0)

/-- `ADD m` (42_registry.md R195 to R197). -/
def execAdd (m : Message) (s : State) : Host.Outcome State Fault Refusal :=
  .next (s.addMessage m)

/-- `LEARN t` (42_registry.md R198): a waiting message is learned at once; else the learn is pending, and
`learn_start` pulses with `learn_timeout = t`. -/
def execLearn (t : BitVec 16) (s : State) : Host.Outcome State Fault Refusal :=
  if s.messageReady then .next s.learnFire
  else .next { s with learnPending := true, learnStarts := s.learnStarts ++ [t] }

/-- `TMO` (42_registry.md R200): it ends a pending learn with `ok = 0`, and is else ignored. -/
def execTmo (s : State) : Host.Outcome State Fault Refusal :=
  if s.learnPending then .next ({ s with learnPending := false }.respond false 0)
  else .next s

/-- `ERASE` (42_registry.md R202): 49 zero bytes written in ascending order, then a reload. -/
def execErase (s : State) : Host.Outcome State Fault Refusal :=
  .next ((s.memWrites (allOffsets.map fun a => (a, 0x00))).reload.respond true 0)

end Sys2Proof.Machine
end

