-- ==== Sys2Proof/Machine/System.lean ====
section
/-! DEFINITION. The system operations: SETUP, RDCNT, RDSTAT, RST and the reserved codes (43_system.md). -/

namespace Sys2Proof.Machine

/-- `SETUP` (43_system.md R230): the decoder, the flag, the counters and the learn are cleared, the registry
is loaded. `buf` is kept. -/
def execSetup (s : State) : Host.Outcome State Fault Refusal :=
  .next (State.respond
    (State.reload
      { { s with messageReady := false }.decInit with
        cnt := Vector.replicate 4 0
        learnPending := false })
    true 0)

/-- `RDCNT k` (43_system.md R231). -/
def execRdcnt (k : BitVec 2) (s : State) : Host.Outcome State Fault Refusal :=
  .next (s.respond true (counterData s.cnt[(counterIndex k).val]))

/-- `RDSTAT` (43_system.md R232). -/
def execRdstat (s : State) : Host.Outcome State Fault Refusal :=
  .next (s.respond true (statusData s.regCount s.regCorrupt s.messageReady))

/-- `RST` (43_system.md R233, 10_state.md R44): every register of the block to its reset value, `buf`
unspecified (assumption 2), the store untouched, no response, and an outstanding `WAIT` or `LEARN` dropped. -/
def execRst (s : State) : Host.Outcome State Fault Refusal :=
  .next { s with
    packetStarted := false
    byteStarted := false
    bitCount := 0
    byteAccum := 0
    bytesCollected := 0
    buf := Vector.ofFn fun i => Config.freeBufferByte s.freeCount i.val
    messageReady := false
    cnt := Vector.replicate 4 0
    learnPending := false
    regCount := 0
    ent := Vector.replicate 6 Entry.empty
    regCorrupt := false
    consumerWaiting := false
    freeCount := s.freeCount + 1 }

/-- Operation code 0x0, reserved: `respond(0, 0)` (43_system.md R234). -/
def execReserved0 (s : State) : Host.Outcome State Fault Refusal := .next (s.respond false 0)

/-- Operation code 0x7, reserved and kept for `send`: `respond(0, 0)` (43_system.md R234). -/
def execReserved7 (s : State) : Host.Outcome State Fault Refusal := .next (s.respond false 0)

/-- Operation code 0xD, reserved: `respond(0, 0)` (43_system.md R234). -/
def execReservedD (s : State) : Host.Outcome State Fault Refusal := .next (s.respond false 0)

/-- Operation code 0xE, reserved: `respond(0, 0)` (43_system.md R234). -/
def execReservedE (s : State) : Host.Outcome State Fault Refusal := .next (s.respond false 0)

/-- Operation code 0xF, reserved: `respond(0, 0)` (43_system.md R234). -/
def execReservedF (s : State) : Host.Outcome State Fault Refusal := .next (s.respond false 0)

end Sys2Proof.Machine
end

