-- ==== Sys2Proof/Machine/Dispatch.lean ====
section
/-! DEFINITION. One arm per operation, each a direct call of its meaning. -/

namespace Sys2Proof.Machine

def exec (i : Instr) (s : State) : Host.Outcome State Fault Refusal :=
  match i with
  | .edge d l => Sys2Proof.Machine.execEdge d l s
  | .setup => Sys2Proof.Machine.execSetup s
  | .poll => Sys2Proof.Machine.execPoll s
  | .take => Sys2Proof.Machine.execTake s
  | .wait => Sys2Proof.Machine.execWait s
  | .rdcnt k => Sys2Proof.Machine.execRdcnt k s
  | .rdstat => Sys2Proof.Machine.execRdstat s
  | .rload => Sys2Proof.Machine.execRload s
  | .lookup m => Sys2Proof.Machine.execLookup m s
  | .add m => Sys2Proof.Machine.execAdd m s
  | .learn t => Sys2Proof.Machine.execLearn t s
  | .erase => Sys2Proof.Machine.execErase s
  | .tmo => Sys2Proof.Machine.execTmo s
  | .rst => Sys2Proof.Machine.execRst s
  | .reserved0 => Sys2Proof.Machine.execReserved0 s
  | .reserved7 => Sys2Proof.Machine.execReserved7 s
  | .reservedD => Sys2Proof.Machine.execReservedD s
  | .reservedE => Sys2Proof.Machine.execReservedE s
  | .reservedF => Sys2Proof.Machine.execReservedF s

end Sys2Proof.Machine
end

