-- ==== Sys2Proof/Machine/Ports.lean ====
section
/-! DEFINITION. How the agents present steps (00_scope.md R12): the one total order of port words
(20_memory.md R71), events of one moment (60_exceptions.md R261), and which word has the next step. -/

namespace Sys2Proof.Machine

/-- The consumer presents a command only after the previous one has responded: not while its `WAIT` or its
`LEARN` is outstanding (00_scope.md R12). -/
def State.consumerFree (s : State) : Bool := !s.consumerWaiting && !s.learnPending

/-- The outstanding `WAIT` has its step: a message is ready (41_decoder.md R167, "the first step at which
`message_ready = 1`", 92_eei_decisions.md D18). -/
def State.heldWaitReady (s : State) : Bool := s.consumerWaiting && s.messageReady

/-- Whether the agent of a port can present its word: only a command waits for a free consumer. -/
def canPresent (free : Bool) (p : PortWord) : Bool :=
  match p with
  | .edge _ => true
  | .command _ => free
  | .timer _ => true
  | .reset _ => true

/-- The first word whose agent can present it, and the words left. Commands behind a blocked consumer keep
their place. -/
def nextPresented (free : Bool) : List PortWord → Option (PortWord × List PortWord)
  | [] => none
  | p :: rest =>
    if canPresent free p then some (p, rest)
    else
      match nextPresented free rest with
      | none => none
      | some (q, left) => some (q, p :: left)

/-- The word that has the next step and the state without it. -/
def State.fetch (s : State) : Option (PortWord × State) :=
  match nextPresented s.consumerFree s.inputs with
  | none => none
  | some (p, left) => some (p, { s with inputs := left })

/-- The events that agents present at one moment, at most one a port. -/
structure Moment where
  rst : Option (BitVec 1)
  edge : Option (BitVec 17)
  tmo : Option (BitVec 1)
  command : Option (BitVec 84)
deriving DecidableEq, Repr

/-- The steps of one moment in the order the block takes them: `RST`, then `EDGE`, then `TMO`, then the
command; an asserted `RST` discards the others (60_exceptions.md R261). -/
def Moment.ordered (m : Moment) : List PortWord :=
  if m.rst = some 1 then [.reset 1]
  else
    (m.edge.map PortWord.edge).toList ++ (m.tmo.map PortWord.timer).toList ++
      (m.command.map PortWord.command).toList

/-- The machine with one more moment of events to come, after those already standing. -/
def State.present (s : State) (m : Moment) : State := { s with inputs := s.inputs ++ m.ordered }

/-- A line transition measured by the Edge Timer, presented after what already stands at the ports. -/
def State.presentEdge (s : State) (ticks : Nat) (l : Level) : State :=
  s.present { rst := none, edge := some (presentedEdge s.cfg ticks l), tmo := none, command := none }

/-- The machine whose very next step runs the operation of this word: the word stands first, and nothing
holds it back (no `WAIT` outstanding and, for a command, no learn pending). -/
def State.presentFirst (s : State) (p : PortWord) : State :=
  { s with
    inputs := p :: s.inputs
    consumerWaiting := false
    learnPending := if p.port = .command then false else s.learnPending }

end Sys2Proof.Machine
end

