-- ==== Sys2Proof/Machine/Step.lean ====
section
/-! DEFINITION. One step of the machine: the outstanding `WAIT` if its message is ready, else the next
port word's operation, else nothing. -/

namespace Sys2Proof.Machine

/-- One atomic step (00_scope.md R11). With nothing to present "the block simply waits for steps"
(70_reset_and_hazards.md R280), and a strobe at 0 presents none (30_encoding.md R97). -/
def step (s : State) : Host.Outcome State Fault Refusal :=
  if s.heldWaitReady then exec .wait s
  else
    match s.fetch with
    | none => .next s
    | some (p, s') =>
      match decode p with
      | .ok i => exec i s'
      | .error _ => .next s'

/-- `s` with the table's word presented first, so that the very next step runs its operation; a number that
is no port word presents nothing (assumption 8). -/
def State.withFetchWord (s : State) (nbits w : Nat) : State :=
  match tablePortWord nbits w with
  | none => s
  | some p => s.presentFirst p

end Sys2Proof.Machine
end

