-- ==== Sys2Proof/Machine/Trace.lean ====
section
/-! DEFINITION. The wire format (30_encoding.md R101 to R103) and the pseudo-operations `BIT1`, `BIT0`,
`MARK`, `BYTE` and `FRAME`, which expand to `EDGE` steps (R108). -/

namespace Sys2Proof.Machine

/-- One edge: its duration in ticks and the level after it, the operands of `EDGE`. -/
abbrev Edge := Nat × Level

/-- The durations a frame is built with: the HIGH period of a 1, the LOW period of a 0, the short LOW gap,
the short HIGH stub, and the LOW gap before a frame (30_encoding.md R108). -/
structure Timing where
  t1 : Nat
  t0 : Nat
  tg : Nat
  ts : Nat
  gap : Nat
deriving DecidableEq, Repr

/-- `T1 = 7`, `T0 = 24`, `TG = 4`, `TS = 3`, `G = 200` (30_encoding.md R108). -/
def Timing.canonical : Timing := ⟨7, 24, 4, 3, 200⟩

/-- `BIT1`, with `g` the gap that comes before it when the line is LOW. -/
def bit1Edges (t : Timing) (g : Nat) : Level → List Edge
  | .low => [(g, .high), (t.t1, .low)]
  | .high => [(t.t1, .low)]

/-- `BIT0`. -/
def bit0Edges (t : Timing) : Level → List Edge
  | .low => [(t.t0, .high)]
  | .high => [(t.ts, .low), (t.t0, .high)]

/-- The edges of symbols inside a frame, from the level after the last edge written. -/
def symbolEdges (t : Timing) : Level → List Bool → List Edge
  | _, [] => []
  | lvl, true :: rest => bit1Edges t t.tg lvl ++ symbolEdges t .low rest
  | lvl, false :: rest => bit0Edges t lvl ++ symbolEdges t .high rest

/-- The symbols of `BYTE v`: a marker, then `v[7]` down to `v[0]` (30_encoding.md R101, R108). -/
def byteSymbols (v : Byte) : List Bool :=
  [true, v.getLsbD 7, v.getLsbD 6, v.getLsbD 5, v.getLsbD 4, v.getLsbD 3, v.getLsbD 2, v.getLsbD 1,
    v.getLsbD 0]

/-- The `1 + 10*9 + 1 = 92` symbols of a packet: start marker, ten bytes, end marker (30_encoding.md
R101). -/
def frameSymbols (m : Message) : List Bool := true :: (m.toList.flatMap byteSymbols ++ [true])

/-- Symbols as a transmission of their own: the first, a marker, comes after the gap `G`. -/
def burstEdges (t : Timing) (lvl : Level) : List Bool → List Edge
  | [] => []
  | true :: rest => bit1Edges t t.gap lvl ++ symbolEdges t .low rest
  | false :: rest => bit0Edges t lvl ++ symbolEdges t .high rest

/-- `FRAME m[0] ... m[9]` from the level after the last edge written (30_encoding.md R108). -/
def frameEdges (t : Timing) (lvl : Level) (m : Message) : List Edge := burstEdges t lvl (frameSymbols m)

/-- The edge words of a list of edges (30_encoding.md R107). -/
def edgeWords (es : List Edge) : List (BitVec 17) := es.map fun e => edgeWord e.1 e.2

end Sys2Proof.Machine
end

