-- ==== Sys2Proof/Safety.lean ====
section
/-! DEFINITION. The terms that claims use: the invariants of the registers, agreement of the working copy
with the store, which edges fire a learn, states a consumer cannot tell apart, and runs of edges. -/

namespace Sys2Proof.Machine

/-- 10_state.md R30 (a) to (f), the invariants of the decoder registers. -/
structure DecoderInv (s : State) : Prop where
  bitCount_le : s.bitCount.toNat ≤ 8
  bytesCollected_le : s.bytesCollected.toNat ≤ 10
  ready : s.messageReady = true →
    s.packetStarted = false ∧ s.byteStarted = false ∧ s.bytesCollected = 10
  noPacket : s.packetStarted = false → s.byteStarted = false
  idle : s.packetStarted = false → s.messageReady = false →
    s.bitCount = 0 ∧ s.byteAccum = 0 ∧ s.bytesCollected = 0
  inByte : s.byteStarted = true → s.bitCount.toNat ≤ 7
  inPacket : s.packetStarted = true → s.bytesCollected.toNat ≤ 9

/-- 10_state.md R30 (g): with the check on, the first byte kept is the sentinel. -/
def SentinelKept (s : State) : Prop :=
  s.cfg.sentinelMode ≠ .off → s.bytesCollected ≠ 0 → s.buf[0] = s.cfg.sentinel

/-- The ranges of the counters and of the registry's count (10_state.md R34, R38), and that a pending learn
finds no message ready (42_registry.md R200). -/
structure RangeInv (s : State) : Prop where
  counter_lt : ∀ k : CounterIndex, s.cnt[k.val] < 2 ^ s.cfg.cntWidth
  regCount_le : s.regCount.toNat ≤ 6
  learn : s.learnPending = true → s.messageReady = false

/-- 42_registry.md R204: the working copy agrees with the store, but for the clamped count. -/
structure Coherent (s : State) : Prop where
  identity : ∀ (i : EntryIndex) (j : Fin 6),
    s.storeByte (slot i (j.castLE (by decide))) = s.ent[i.val].identity[j.val]
  switchId : ∀ i : EntryIndex, s.storeByte (slot i 6) = s.ent[i.val].switchId
  paired : ∀ i : EntryIndex, (s.ent[i.val].paired = true ↔ s.storeByte (slot i 7) ≠ 0)
  count : s.regCorrupt = false → (s.storeByte 0).toNat = s.regCount.toNat
  corrupt : s.regCorrupt = true → 6 < (s.storeByte 0).toNat ∧ s.regCount = 6

/-- 10_state.md R40: exactly the entries below the count are paired. -/
def PairedBelowCount (s : State) : Prop :=
  s.regCount.toNat ≤ 6 ∧ ∀ i : EntryIndex, (s.ent[i.val].paired = true ↔ i.val < s.regCount.toNat)

/-- A duration in the short band (00_scope.md R6). -/
abbrev ShortBand (cfg : Config) (d : Nat) : Prop := cfg.shortMin ≤ d ∧ d < cfg.shortLim

/-- A duration in the long band of a well-formed configuration (00_scope.md R6). -/
abbrev LongBand (cfg : Config) (d : Nat) : Prop := cfg.wf ∧ cfg.longMinEx < d ∧ d < cfg.longLim

/-- A duration in no band of a well-formed configuration (40_classifier.md R136). -/
abbrev OutOfBand (cfg : Config) (d : Nat) : Prop :=
  cfg.wf ∧ (cfg.shortLim ≤ d ∧ d ≤ cfg.longMinEx ∨ cfg.longLim ≤ d)

/-- An edge that carries the symbol `b`: a 1 is a short pulse, a 0 a long one (30_encoding.md R102). -/
abbrev SymbolEdge (cfg : Config) (b : Bool) (d : Nat) (l : Level) : Prop :=
  b = true ∧ l = .low ∧ ShortBand cfg d ∨ b = false ∧ l = .high ∧ LongBand cfg d

/-- The entry a message is recorded as: `identity[j] = m[4 + j]`, `switch_id = m[2]`, paired
(42_registry.md R190, R195). -/
def recordedEntry (m : Message) : Entry where
  identity := #v[m[4], m[5], m[6], m[7], m[8], m[9]]
  switchId := m[2]
  paired := true

/-- The nine store requests of an append at index `i`: the slot ascending, then the count
(42_registry.md R195, R205). -/
def appendRequests (i : EntryIndex) (m : Message) : List StoreRequest :=
  [⟨true, slot i 0, m[4]⟩, ⟨true, slot i 1, m[5]⟩, ⟨true, slot i 2, m[6]⟩, ⟨true, slot i 3, m[7]⟩,
   ⟨true, slot i 4, m[8]⟩, ⟨true, slot i 5, m[9]⟩, ⟨true, slot i 6, m[2]⟩, ⟨true, slot i 7, 0x01⟩,
   ⟨true, 0, BitVec.ofNat 8 (i.val + 1)⟩]

/-- The store of `t` is that of `s` with message `m` appended at index `i`: the nine bytes it writes, and
every other address as before (42_registry.md R195). -/
structure Appended (s t : State) (i : EntryIndex) (m : Message) : Prop where
  identity : ∀ j : Fin 6, t.storeByte (slot i (j.castLE (by decide))) = m[4 + j.val]
  switchId : t.storeByte (slot i 6) = m[2]
  paired : t.storeByte (slot i 7) = 0x01
  count : t.storeByte 0 = BitVec.ofNat 8 (i.val + 1)
  elsewhere : ∀ addr : Nat, addr ≠ s.cfg.storeBase →
    (∀ k : Fin 8, addr ≠ s.cfg.storeBase + (1 + 8 * i.val + k.val)) → t.store.read addr = s.store.read addr

/-- The working copy of `t` is what a load of the store of `s` gives (42_registry.md R191, R192). -/
structure Loaded (s t : State) : Prop where
  legal : (s.storeByte 0).toNat ≤ 6 →
    t.regCount.toNat = (s.storeByte 0).toNat ∧ t.regCorrupt = false
  corrupt : 6 < (s.storeByte 0).toNat → t.regCount = 6 ∧ t.regCorrupt = true
  identity : ∀ (i : EntryIndex) (j : Fin 6),
    t.ent[i.val].identity[j.val] = s.storeByte (slot i (j.castLE (by decide)))
  switchId : ∀ i : EntryIndex, t.ent[i.val].switchId = s.storeByte (slot i 6)
  paired : ∀ i : EntryIndex, (t.ent[i.val].paired = true ↔ s.storeByte (slot i 7) ≠ 0)

/-- What 42_registry.md R193 calls a match of entry `i`: present, paired, and equal in the switch id and in
every identity byte. -/
def MatchAt (s : State) (m : Message) (i : EntryIndex) : Prop :=
  i.val < s.regCount.toNat ∧ s.ent[i.val].paired = true ∧ s.ent[i.val].switchId = m[2] ∧
    ∀ j : Fin 6, s.ent[i.val].identity[j.val] = m[4 + j.val]

/-- The step takes `RST` from the ports. -/
def StepResets (s : State) : Prop :=
  s.heldWaitReady = false ∧ ∃ p t, s.fetch = some (p, t) ∧ decode p = .ok .rst

/-- An `EDGE` that completes a message while a learn is pending (41_decoder.md R165). -/
def FiresLearn (d : Nat) (l : Level) (s : State) : Prop :=
  s.messageReady = false ∧ s.learnPending = true ∧
    (s.onPulse (classify s.cfg d l)).messageReady = true

/-- Two states that differ at most in the bytes of `buf` not yet collected, and in how many free values
were drawn (10_state.md R28, R45). -/
def SameButDeadBuffer (s t : State) : Prop :=
  t = { s with buf := t.buf, freeCount := t.freeCount } ∧
    ∀ i : Fin 10, i.val < s.bytesCollected.toNat → t.buf[i] = s.buf[i]

/-- The `EDGE` steps of a list of edges, one after another. -/
def feed : List Edge → State → Host.Outcome State Fault Refusal
  | [], s => .next s
  | e :: rest, s =>
    match exec (.edge e.1 e.2) s with
    | .next t => feed rest t
    | .fault r => .fault r
    | .refused r => .refused r

/-- Durations that the classifier of `cfg` takes as a frame means them: a short 1, a long 0, gap and stub
under the glitch limit, and the gap before the frame out of band (30_encoding.md R102, R108). -/
structure Timing.Fits (t : Timing) (cfg : Config) : Prop where
  one : cfg.shortMin ≤ t.t1 ∧ t.t1 < cfg.shortLim
  zero : cfg.longMinEx < t.t0 ∧ t.t0 < cfg.longLim
  gapIn : t.tg < cfg.shortMin
  stub : t.ts < cfg.shortMin
  gapBefore : cfg.longLim ≤ t.gap

end Sys2Proof.Machine
end

