-- ==== Sys2Proof/Certificates/Slice0/Obligations.lean ====
section
/-! DEFINITION. The statements for the provers. Each cites the rule it formalises. -/

open Sys2Proof Sys2Proof.Machine

/-! ### Encoding -/

/-- Decode and encode agree on every well-formed operation (30_encoding.md sections 1 to 3). -/
def Obligations.DecodeOfEncode : Prop :=
  ∀ i : Instr, i.wf = true → decode (encode i) = .ok i

/-- 30_encoding.md R91: every edge word is a legal `EDGE` whose operands are its fields, and encodes back to
itself; a duration of 65535 ticks or more is presented as 0xFFFF. -/
def Obligations.EveryEdgeWordIsAnEdge : Prop :=
  (∀ w : BitVec 17, ∃ d l, decode (.edge w) = .ok (.edge d l) ∧ (Instr.edge d l).wf = true ∧
    d = (w.extractLsb' 0 16).toNat ∧ (l = .high ↔ w.getLsbD 16 = true) ∧ encode (.edge d l) = .edge w) ∧
  ∀ (d : Nat) (l : Level), 65535 ≤ d →
    ∃ w : BitVec 17, encode (.edge d l) = .edge w ∧ w.extractLsb' 0 16 = 0xFFFF ∧
      (w.getLsbD 16 = true ↔ l = .high)

/-- 30_encoding.md R92, R95, R96, R98: the operation of every code, its operands the named fields of `arg`,
other bits of `arg` without effect. -/
def Obligations.CommandCodesDecode : Prop :=
  ∀ arg : BitVec 80,
    decode (.command (0x0#4 ++ arg)) = .ok .reserved0 ∧
    decode (.command (0x1#4 ++ arg)) = .ok .setup ∧
    decode (.command (0x2#4 ++ arg)) = .ok .poll ∧
    decode (.command (0x3#4 ++ arg)) = .ok .take ∧
    decode (.command (0x4#4 ++ arg)) = .ok .wait ∧
    decode (.command (0x5#4 ++ arg)) = .ok (.rdcnt (arg.extractLsb' 0 2)) ∧
    decode (.command (0x6#4 ++ arg)) = .ok .rdstat ∧
    decode (.command (0x7#4 ++ arg)) = .ok .reserved7 ∧
    decode (.command (0x8#4 ++ arg)) = .ok .rload ∧
    decode (.command (0xB#4 ++ arg)) = .ok (.learn (arg.extractLsb' 0 16)) ∧
    decode (.command (0xC#4 ++ arg)) = .ok .erase ∧
    decode (.command (0xD#4 ++ arg)) = .ok .reservedD ∧
    decode (.command (0xE#4 ++ arg)) = .ok .reservedE ∧
    decode (.command (0xF#4 ++ arg)) = .ok .reservedF ∧
    ∃ m : Message, (∀ i : Fin 10, m[i.val] = arg.extractLsb' (72 - 8 * i.val) 8) ∧
      decode (.command (0x9#4 ++ arg)) = .ok (.lookup m) ∧
      decode (.command (0xA#4 ++ arg)) = .ok (.add m)

/-- The port words that 30_encoding.md R107 writes out decode to the trace lines they stand for. -/
def Obligations.SpecTraceWordsDecode : Prop :=
  decode (.edge 0x00007) = .ok (.edge 7 .low) ∧
  decode (.edge 0x10018) = .ok (.edge 24 .high) ∧
  decode (.edge 0x100C8) = .ok (.edge 200 .high) ∧
  decode (.command 0x300000000000000000000) = .ok .take ∧
  decode (.command 0x9F6F6EEEE010203040506) =
    .ok (.lookup #v[0xF6, 0xF6, 0xEE, 0xEE, 0x01, 0x02, 0x03, 0x04, 0x05, 0x06])

/-- The strobes present a step at the value 1 (30_encoding.md section 2); that a word at 0 is taken from the port
and nothing happens is the model's reading (assumption 6). -/
def Obligations.StrobesPresentAtOneOnly : Prop :=
  decode (.timer 1) = .ok .tmo ∧ decode (.reset 1) = .ok .rst ∧
  ∀ (s : State) (rest : List PortWord), s.heldWaitReady = false →
    (s.inputs = .timer 0 :: rest ∨ s.inputs = .reset 0 :: rest) → step s = .next { s with inputs := rest }

/-! ### EDGE -/

/-- 40_classifier.md R131 and 41_decoder.md R152: an edge under the glitch limit, of either level, changes
nothing. -/
def Obligations.GlitchEdgeChangesNothing : Prop :=
  ∀ (s : State) (d : Nat) (l : Level), s.messageReady = false → d < s.cfg.shortMin →
    classify s.cfg d l = .ignore ∧ exec (.edge d l) s = .next s

/-- 40_classifier.md R133, R135, R136 and 60_exceptions.md R251 to R253, R255, R256: each timing violation
counts once, in its own counter, and aborts the packet, in every phase but `MESSAGE_READY`. -/
def Obligations.TimingViolationsAbort : Prop :=
  ∀ (s : State) (d : Nat), s.messageReady = false →
    (ShortBand s.cfg d → classify s.cfg d .high = .invalid .shortHigh ∧
      exec (.edge d .high) s = .next { s with
        cnt := s.cnt.set 0 ((s.cnt[0] + 1) % 2 ^ s.cfg.cntWidth)
        packetStarted := false, byteStarted := false, bitCount := 0, byteAccum := 0, bytesCollected := 0 }) ∧
    (LongBand s.cfg d → classify s.cfg d .low = .invalid .longLow ∧
      exec (.edge d .low) s = .next { s with
        cnt := s.cnt.set 1 ((s.cnt[1] + 1) % 2 ^ s.cfg.cntWidth)
        packetStarted := false, byteStarted := false, bitCount := 0, byteAccum := 0, bytesCollected := 0 }) ∧
    (OutOfBand s.cfg d → ∀ l : Level, classify s.cfg d l = .invalid .band ∧
      exec (.edge d l) s = .next { s with
        cnt := s.cnt.set 2 ((s.cnt[2] + 1) % 2 ^ s.cfg.cntWidth)
        packetStarted := false, byteStarted := false, bitCount := 0, byteAccum := 0, bytesCollected := 0 })

/-- 41_decoder.md R157, R158 and 60_exceptions.md R254: a long pulse where a marker is due is violation 3. -/
def Obligations.LongPulseNeedsByteStart : Prop :=
  ∀ (s : State) (d : Nat), s.messageReady = false → LongBand s.cfg d →
    (s.packetStarted = false ∨ s.byteStarted = false) →
    exec (.edge d .high) s = .next { s with
      cnt := s.cnt.set 3 ((s.cnt[3] + 1) % 2 ^ s.cfg.cntWidth)
      packetStarted := false, byteStarted := false, bitCount := 0, byteAccum := 0, bytesCollected := 0 }

/-- 41_decoder.md R151: with a message ready, no edge changes any state. -/
def Obligations.ReadyDropsEveryEdge : Prop :=
  ∀ (s : State) (d : Nat) (l : Level), s.messageReady = true → exec (.edge d l) s = .next s

/-- 41_decoder.md R154: a short pulse in `IDLE` starts a packet. -/
def Obligations.ShortPulseStartsPacket : Prop :=
  ∀ (s : State) (d : Nat), s.phase = .idle → ShortBand s.cfg d →
    ∃ t, exec (.edge d .low) s = .next t ∧ t.phase = .packetStarted ∧
      t = { s with
        packetStarted := true, byteStarted := false, bitCount := 0, byteAccum := 0, bytesCollected := 0 }

/-- 41_decoder.md R155: a short pulse in `PACKET_STARTED` starts a byte. -/
def Obligations.ShortPulseStartsByte : Prop :=
  ∀ (s : State) (d : Nat), s.phase = .packetStarted → ShortBand s.cfg d →
    ∃ t, exec (.edge d .low) s = .next t ∧ t.phase = .byteInProgress ∧
      t = { s with byteStarted := true, bitCount := 0, byteAccum := 0 }

/-- 41_decoder.md R156, R159, R160: a data bit that does not finish its byte is shifted into bit 0 of the
accumulator, and counted. -/
def Obligations.DataBitShiftsIn : Prop :=
  ∀ (s : State) (b : Bool) (d : Nat) (l : Level), s.phase = .byteInProgress → s.bitCount.toNat < 7 →
    SymbolEdge s.cfg b d l →
    exec (.edge d l) s = .next { s with
      byteAccum := (s.byteAccum.extractLsb' 0 7).concat b, bitCount := s.bitCount + 1 }

/-- 41_decoder.md R160, R161: the eighth bit finishes the byte, which is stored at its index unless it is a
byte 0 that fails the check; it is not the tenth. -/
def Obligations.FinishedByteIsStored : Prop :=
  ∀ (s : State) (b : Bool) (d : Nat) (l : Level) (v : Byte), s.phase = .byteInProgress → s.bitCount = 7 →
    SymbolEdge s.cfg b d l → v = (s.byteAccum.extractLsb' 0 7).concat b → s.bytesCollected.toNat ≤ 8 →
    (s.bytesCollected = 0 → s.cfg.sentinelMode = .off ∨ v = s.cfg.sentinel) →
    ∃ t, exec (.edge d l) s = .next t ∧ t.phase = .packetStarted ∧
      t = { s with
        byteStarted := false, byteAccum := v, bitCount := 8
        buf := s.buf.setIfInBounds s.bytesCollected.toNat v
        bytesCollected := s.bytesCollected + 1 }

/-- 41_decoder.md R162 and 60_exceptions.md R257: a byte 0 that fails the check and is not repaired discards
the packet, and no counter moves. -/
def Obligations.WrongFirstByteIsDiscarded : Prop :=
  ∀ (s : State) (b : Bool) (d : Nat) (l : Level) (v : Byte), s.phase = .byteInProgress → s.bitCount = 7 →
    SymbolEdge s.cfg b d l → v = (s.byteAccum.extractLsb' 0 7).concat b → s.bytesCollected = 0 →
    v ≠ s.cfg.sentinel →
    (s.cfg.sentinelMode = .strict ∨ s.cfg.sentinelMode = .recover ∧ v ≠ s.cfg.sentinelAlt) →
    exec (.edge d l) s = .next { s with
      packetStarted := false, byteStarted := false, bitCount := 0, byteAccum := 0, bytesCollected := 0 }

/-- 41_decoder.md R163: in mode `RECOVER` a byte 0 equal to `SENTINEL_ALT` is taken as the sentinel, and the
decoder stands as if it had just accepted the byte start marker of byte 1. -/
def Obligations.LostPulseByteIsRepaired : Prop :=
  ∀ (s : State) (b : Bool) (d : Nat) (l : Level), s.phase = .byteInProgress → s.bitCount = 7 →
    SymbolEdge s.cfg b d l → s.cfg.sentinelAlt = (s.byteAccum.extractLsb' 0 7).concat b →
    s.bytesCollected = 0 → s.cfg.sentinelAlt ≠ s.cfg.sentinel → s.cfg.sentinelMode = .recover →
    ∃ t, exec (.edge d l) s = .next t ∧ t.phase = .byteInProgress ∧
      t = { s with
        buf := s.buf.set 0 s.cfg.sentinel, bytesCollected := 1, byteStarted := true, bitCount := 0
        byteAccum := 0 }

/-- 41_decoder.md R164: the step that stores the tenth byte makes the message ready. -/
def Obligations.TenthByteCompletesMessage : Prop :=
  ∀ (s : State) (b : Bool) (d : Nat) (l : Level) (v : Byte), s.phase = .byteInProgress → s.bitCount = 7 →
    SymbolEdge s.cfg b d l → v = (s.byteAccum.extractLsb' 0 7).concat b → s.bytesCollected = 9 →
    s.learnPending = false →
    ∃ t, exec (.edge d l) s = .next t ∧ t.phase = .messageReady ∧ t.msgReadyWire = true ∧
      t = { s with
        messageReady := true, packetStarted := false, byteStarted := false, byteAccum := v, bitCount := 8
        buf := s.buf.set 9 v, bytesCollected := 10 }

/-- 41_decoder.md R165 and 42_registry.md R199, R201: a message that completes while a learn is pending is
taken in the same step, stored if there is room, and answered. -/
def Obligations.CompletionFiresPendingLearn : Prop :=
  ∀ (s : State) (b : Bool) (d : Nat) (l : Level) (m : Message), s.phase = .byteInProgress →
    s.bitCount = 7 → SymbolEdge s.cfg b d l → s.bytesCollected = 9 →
    m = s.buf.set 9 ((s.byteAccum.extractLsb' 0 7).concat b) → s.learnPending = true →
    (6 ≤ s.regCount.toNat → exec (.edge d l) s = .next { s with
      packetStarted := false, byteStarted := false, bitCount := 0, byteAccum := 0, bytesCollected := 0
      buf := m, learnPending := false, responses := s.responses ++ [⟨false, 0⟩] }) ∧
    ∀ i : EntryIndex, s.regCount.toNat = i.val → Memory.wf s.store →
      ∃ t, exec (.edge d l) s = .next t ∧ Appended s t i m ∧
        t = { s with
          packetStarted := false, byteStarted := false, bitCount := 0, byteAccum := 0, bytesCollected := 0
          buf := m, learnPending := false, regCount := s.regCount + 1
          ent := s.ent.set i (recordedEntry m), store := t.store
          storeTrace := s.storeTrace ++ appendRequests i m
          responses := s.responses ++ [⟨true, BitVec.ofNat 80 i.val⟩] }

/-- The frame of an edge that fires no learn (10_state.md R20, 60_exceptions.md R265): the decoder's registers
and the counters at most; no response, no store access, no registry state. -/
def Obligations.EdgeWritesOnlyTheDecoder : Prop :=
  ∀ (s t : State) (d : Nat) (l : Level), exec (.edge d l) s = .next t → ¬FiresLearn d l s →
    t = { s with
      packetStarted := t.packetStarted, byteStarted := t.byteStarted, bitCount := t.bitCount
      byteAccum := t.byteAccum, bytesCollected := t.bytesCollected, buf := t.buf
      messageReady := t.messageReady, cnt := t.cnt }

/-- 60_exceptions.md R260: an edge increments at most one counter, by one, and one that counts leaves the
decoder in `IDLE`. -/
def Obligations.EdgeCountsAtMostOnce : Prop :=
  ∀ (s t : State) (d : Nat) (l : Level), exec (.edge d l) s = .next t →
    t.cnt = s.cnt ∨
    ∃ k : CounterIndex, t.cnt = s.cnt.set k ((s.cnt[k.val] + 1) % 2 ^ s.cfg.cntWidth) ∧ t.phase = .idle

/-- The phase after an edge (41_decoder.md R169): a violation leads to `IDLE` from every phase, a marker to the
next phase, and a data bit that does not finish its byte to `BYTE_IN_PROGRESS`; a finished byte leads to
`PACKET_STARTED`, or to `BYTE_IN_PROGRESS` after a repair, or to `IDLE` after a discard or a fired learn, or
to `MESSAGE_READY`. -/
def Obligations.PhaseAfterEdge : Prop :=
  ∀ (s t : State) (d : Nat) (l : Level), DecoderInv s → exec (.edge d l) s = .next t →
    (s.phase = .messageReady → t.phase = .messageReady) ∧
    (s.phase ≠ .messageReady →
      (classify s.cfg d l = .ignore → t.phase = s.phase) ∧
      (∀ v, classify s.cfg d l = .invalid v → t.phase = .idle)) ∧
    (classify s.cfg d l = .shortPulse → s.phase = .idle → t.phase = .packetStarted) ∧
    (classify s.cfg d l = .shortPulse → s.phase = .packetStarted → t.phase = .byteInProgress) ∧
    (classify s.cfg d l = .longPulse → s.phase = .idle ∨ s.phase = .packetStarted → t.phase = .idle) ∧
    ∀ (b : Bool) (v : Byte), classify s.cfg d l = (if b then .shortPulse else .longPulse) →
      v = (s.byteAccum.extractLsb' 0 7).concat b → s.phase = .byteInProgress →
      (s.bitCount.toNat ≤ 6 → t.phase = .byteInProgress) ∧
      (s.bitCount = 7 →
        (s.bytesCollected = 0 →
          (s.cfg.sentinelMode = .off ∨ v = s.cfg.sentinel → t.phase = .packetStarted) ∧
          (v ≠ s.cfg.sentinel → s.cfg.sentinelMode = .recover → v = s.cfg.sentinelAlt →
            t.phase = .byteInProgress) ∧
          (v ≠ s.cfg.sentinel →
            s.cfg.sentinelMode = .strict ∨ s.cfg.sentinelMode = .recover ∧ v ≠ s.cfg.sentinelAlt →
            t.phase = .idle)) ∧
        (1 ≤ s.bytesCollected.toNat → s.bytesCollected.toNat ≤ 8 → t.phase = .packetStarted) ∧
        (s.bytesCollected = 9 → t.phase = if s.learnPending then .idle else .messageReady))

/-! ### POLL, TAKE, WAIT -/

/-- 41_decoder.md R166: `POLL` answers `message_ready` and writes no state. -/
def Obligations.PollAnswersReadiness : Prop :=
  (∀ arg : BitVec 80, decode (.command (0x2#4 ++ arg)) = .ok .poll) ∧
  ∀ s : State, exec .poll s = .next { s with responses := s.responses ++ [⟨s.messageReady, 0⟩] }

/-- 41_decoder.md R168: `TAKE` hands the message over, clears the flag and re-initialises the decoder in one
step, or answers `ok = 0` and changes nothing; so a second `TAKE` fails. -/
def Obligations.TakeHandsOverOnce : Prop :=
  (∀ arg : BitVec 80, decode (.command (0x3#4 ++ arg)) = .ok .take) ∧
  (∀ s : State, s.messageReady = true →
    ∃ t, exec .take s = .next t ∧ t.phase = .idle ∧
      t = { s with
        messageReady := false, packetStarted := false, byteStarted := false, bitCount := 0, byteAccum := 0
        bytesCollected := 0
        responses := s.responses ++ [⟨true, s.buf[0] ++ s.buf[1] ++ s.buf[2] ++ s.buf[3] ++ s.buf[4] ++
          s.buf[5] ++ s.buf[6] ++ s.buf[7] ++ s.buf[8] ++ s.buf[9]⟩] } ∧
      exec .take t = .next { t with responses := t.responses ++ [⟨false, 0⟩] }) ∧
  ∀ s : State, s.messageReady = false →
    exec .take s = .next { s with responses := s.responses ++ [⟨false, 0⟩] }

/-- `WAIT` (41_decoder.md section 3): with a message ready it answers `ok = 1` and does not take the message;
else the consumer stays waiting, the block's state as it was; and an outstanding `WAIT` whose message is
ready is answered before anything else, which is the model's order of steps (assumption 6). -/
def Obligations.WaitAnswersWhenReady : Prop :=
  (∀ s : State, s.messageReady = true →
    exec .wait s = .next { s with responses := s.responses ++ [⟨true, 0⟩], consumerWaiting := false }) ∧
  (∀ s : State, s.messageReady = false → exec .wait s = .next { s with consumerWaiting := true }) ∧
  ∀ s : State, s.consumerWaiting = true → s.messageReady = true →
    step s = .next { s with responses := s.responses ++ [⟨true, 0⟩], consumerWaiting := false }

/-- Nothing but `RST` ends a `WAIT` before a message is ready (41_decoder.md section 3). -/
def Obligations.OnlyResetEndsWaitEarly : Prop :=
  ∀ s t : State, s.consumerWaiting = true → s.messageReady = false → step s = .next t →
    t.consumerWaiting = true ∨ StepResets s

/-! ### System operations -/

/-- 43_system.md R231 and 30_encoding.md R109: `RDCNT` answers the counter that `arg[1:0]` selects, and reading
does not clear it. -/
def Obligations.RdcntReadsTheCounter : Prop :=
  (∀ arg : BitVec 80, decode (.command (0x5#4 ++ arg)) = .ok (.rdcnt (arg.extractLsb' 0 2))) ∧
  ∀ s : State,
    exec (.rdcnt 0) s = .next { s with responses := s.responses ++ [⟨true, BitVec.ofNat 80 s.cnt[0]⟩] } ∧
    exec (.rdcnt 1) s = .next { s with responses := s.responses ++ [⟨true, BitVec.ofNat 80 s.cnt[1]⟩] } ∧
    exec (.rdcnt 2) s = .next { s with responses := s.responses ++ [⟨true, BitVec.ofNat 80 s.cnt[2]⟩] } ∧
    exec (.rdcnt 3) s = .next { s with responses := s.responses ++ [⟨true, BitVec.ofNat 80 s.cnt[3]⟩] }

/-- 43_system.md R232 and 30_encoding.md R110: `RDSTAT` answers the status word and writes no state. -/
def Obligations.RdstatReadsTheStatusWord : Prop :=
  (∀ arg : BitVec 80, decode (.command (0x6#4 ++ arg)) = .ok .rdstat) ∧
  ∀ s : State, ∃ w : BitVec 80,
    exec .rdstat s = .next { s with responses := s.responses ++ [⟨true, w⟩] } ∧
    w.extractLsb' 0 4 = s.regCount.zeroExtend 4 ∧ w.getLsbD 4 = s.regCorrupt ∧
    w.getLsbD 5 = s.messageReady ∧ w.extractLsb' 6 74 = 0

/-- 43_system.md R234 and 30_encoding.md R98: each reserved operation code answers `ok = 0, data = 0`, whatever
`arg` is, and changes no state. -/
def Obligations.ReservedCodesAnswerFail : Prop :=
  (∀ arg : BitVec 80,
    decode (.command (0x0#4 ++ arg)) = .ok .reserved0 ∧ decode (.command (0x7#4 ++ arg)) = .ok .reserved7 ∧
    decode (.command (0xD#4 ++ arg)) = .ok .reservedD ∧ decode (.command (0xE#4 ++ arg)) = .ok .reservedE ∧
    decode (.command (0xF#4 ++ arg)) = .ok .reservedF) ∧
  ∀ s : State,
    exec .reserved0 s = .next { s with responses := s.responses ++ [⟨false, 0⟩] } ∧
    exec .reserved7 s = .next { s with responses := s.responses ++ [⟨false, 0⟩] } ∧
    exec .reservedD s = .next { s with responses := s.responses ++ [⟨false, 0⟩] } ∧
    exec .reservedE s = .next { s with responses := s.responses ++ [⟨false, 0⟩] } ∧
    exec .reservedF s = .next { s with responses := s.responses ++ [⟨false, 0⟩] }

/-- 43_system.md R230: `SETUP` clears the flag, the decoder, the counters and the learn, loads the registry,
keeps `buf`, and answers `ok = 1`. -/
def Obligations.SetupInitialises : Prop :=
  (∀ arg : BitVec 80, decode (.command (0x1#4 ++ arg)) = .ok .setup) ∧
  ∀ s : State, ∃ t, exec .setup s = .next t ∧ Loaded s t ∧
    t = { s with
      messageReady := false, packetStarted := false, byteStarted := false, bitCount := 0, byteAccum := 0
      bytesCollected := 0, cnt := #v[0, 0, 0, 0], learnPending := false
      regCount := t.regCount, regCorrupt := t.regCorrupt, ent := t.ent
      storeTrace := s.storeTrace ++ allOffsets.map (fun a => ⟨false, a, 0⟩)
      responses := s.responses ++ [⟨true, 0⟩] }

/-- 10_state.md R44: the values after `RST`; `buf` is any bytes, the store is unchanged, and nothing is
answered. -/
def Obligations.RstRestoresResetValues : Prop :=
  ∀ s : State, ∃ t, exec .rst s = .next t ∧ t.phase = .idle ∧ t.msgReadyWire = false ∧
    t.store = s.store ∧
    t = { s with
      packetStarted := false, byteStarted := false, bitCount := 0, byteAccum := 0, bytesCollected := 0
      buf := t.buf, messageReady := false, cnt := #v[0, 0, 0, 0], learnPending := false, regCount := 0
      ent := Vector.replicate 6 ⟨#v[0, 0, 0, 0, 0, 0], 0, false⟩, regCorrupt := false
      consumerWaiting := false, freeCount := t.freeCount }

/-! ### The registry -/

/-- 42_registry.md R191, R192: `RLOAD` replaces the working copy by the store's content, a count above 6
clamped and flagged, with 49 ascending reads and no write. -/
def Obligations.RloadReplacesWorkingCopy : Prop :=
  (∀ arg : BitVec 80, decode (.command (0x8#4 ++ arg)) = .ok .rload) ∧
  ∀ s : State, ∃ t, exec .rload s = .next t ∧ Loaded s t ∧
    t = { s with
      regCount := t.regCount, regCorrupt := t.regCorrupt, ent := t.ent
      storeTrace := s.storeTrace ++ allOffsets.map (fun a => ⟨false, a, 0⟩)
      responses := s.responses ++ [⟨true, 0⟩] }

/-- 42_registry.md R193, R194: `LOOKUP` answers the lowest index that matches, or `ok = 0` when none does, and
writes no state. -/
def Obligations.LookupFindsFirstMatch : Prop :=
  ∀ (s : State) (m : Message),
    (∀ i : EntryIndex, MatchAt s m i → (∀ j : EntryIndex, j < i → ¬MatchAt s m j) →
      exec (.lookup m) s =
        .next { s with responses := s.responses ++ [⟨true, BitVec.ofNat 80 i.val⟩] }) ∧
    ((∀ i : EntryIndex, ¬MatchAt s m i) →
      exec (.lookup m) s = .next { s with responses := s.responses ++ [⟨false, 0⟩] })

/-- 42_registry.md R195: `ADD` with room appends the entry, persists its slot and the count in that order, and
answers the index. -/
def Obligations.AddAppendsEntry : Prop :=
  ∀ (s : State) (m : Message) (i : EntryIndex), s.regCount.toNat = i.val → Memory.wf s.store →
    ∃ t, exec (.add m) s = .next t ∧ Appended s t i m ∧
      t = { s with
        ent := s.ent.set i (recordedEntry m), regCount := s.regCount + 1, store := t.store
        storeTrace := s.storeTrace ++ appendRequests i m
        responses := s.responses ++ [⟨true, BitVec.ofNat 80 i.val⟩] }

/-- 42_registry.md R196: `ADD` on a full registry answers `ok = 0` and changes nothing. -/
def Obligations.AddOnFullRegistry : Prop :=
  ∀ (s : State) (m : Message), s.regCount = 6 →
    exec (.add m) s = .next { s with responses := s.responses ++ [⟨false, 0⟩] }

/-- `LEARN` with a message ready (42_registry.md sections 4 and 5): the waiting message is consumed, stored if
there is room, and answered at once. -/
def Obligations.LearnStoresWaitingMessage : Prop :=
  ∀ (s : State) (t : BitVec 16), s.messageReady = true →
    (6 ≤ s.regCount.toNat → exec (.learn t) s = .next { s with
      messageReady := false, packetStarted := false, byteStarted := false, bitCount := 0, byteAccum := 0
      bytesCollected := 0, learnPending := false, responses := s.responses ++ [⟨false, 0⟩] }) ∧
    ∀ i : EntryIndex, s.regCount.toNat = i.val → Memory.wf s.store →
      ∃ u, exec (.learn t) s = .next u ∧ Appended s u i s.buf ∧
        u = { s with
          messageReady := false, packetStarted := false, byteStarted := false, bitCount := 0, byteAccum := 0
          bytesCollected := 0, learnPending := false, regCount := s.regCount + 1
          ent := s.ent.set i (recordedEntry s.buf), store := u.store
          storeTrace := s.storeTrace ++ appendRequests i s.buf
          responses := s.responses ++ [⟨true, BitVec.ofNat 80 i.val⟩] }

/-- `LEARN` with no message ready (42_registry.md section 5, 30_encoding.md section 1): the learn is pending,
`learn_start` pulses with the timeout, and there is no response yet. -/
def Obligations.LearnWaitsForMessage : Prop :=
  ∀ (s : State) (t : BitVec 16), s.messageReady = false →
    exec (.learn t) s = .next { s with learnPending := true, learnStarts := s.learnStarts ++ [t] }

/-- 42_registry.md R200: `TMO` ends a pending learn with `ok = 0` and changes nothing else; with none pending
it is ignored. -/
def Obligations.TmoEndsPendingLearn : Prop :=
  ∀ s : State,
    (s.learnPending = true →
      exec .tmo s = .next { s with learnPending := false, responses := s.responses ++ [⟨false, 0⟩] }) ∧
    (s.learnPending = false → exec .tmo s = .next s)

/-- 42_registry.md R202: `ERASE` zeroes the region and reloads, with 49 ascending writes and then 49 ascending
reads; no address outside the region changes. -/
def Obligations.EraseClearsRegistry : Prop :=
  (∀ arg : BitVec 80, decode (.command (0xC#4 ++ arg)) = .ok .erase) ∧
  ∀ s : State, Memory.wf s.store →
    ∃ t, exec .erase s = .next t ∧ (∀ a : Offset, t.storeByte a = 0) ∧
      (∀ addr : Nat, addr < s.cfg.storeBase ∨ s.cfg.storeBase + 48 < addr →
        t.store.read addr = s.store.read addr) ∧
      t = { s with
        store := t.store, regCount := 0, regCorrupt := false
        ent := Vector.replicate 6 ⟨#v[0, 0, 0, 0, 0, 0], 0, false⟩
        storeTrace := s.storeTrace ++ allOffsets.map (fun a => ⟨true, a, 0⟩) ++
          allOffsets.map (fun a => ⟨false, a, 0⟩)
        responses := s.responses ++ [⟨true, 0⟩] }

/-! ### The step -/

/-- When the word standing first at the ports decodes to an operation, and its agent can present it, the step
is that operation on the state without the word. The queue of words is the model's form of the total order of
steps (assumption 6). -/
def Obligations.StepRunsTheDecodedOperation : Prop :=
  ∀ (s : State) (p : PortWord) (rest : List PortWord) (i : Instr), s.inputs = p :: rest →
    s.heldWaitReady = false → (p.port = .command → s.consumerFree = true) → decode p = .ok i →
    step s = exec i { s with inputs := rest }

/-- A table word placed first is run by the very next step, on a state that differs from the given one only in
what keeps a consumer from presenting it: the model's loading convention (assumption 8). -/
def Obligations.TableWordRunsFirst : Prop :=
  ∀ (s : State) (nbits w : Nat) (i : Instr), decodeTableWord nbits w = some i →
    step (s.withFetchWord nbits w) = exec i { s with
      consumerWaiting := false
      learnPending := if i.port = .command then false else s.learnPending }

/-- With nothing standing at the ports, or only commands of a consumer that is not free, and no `WAIT` to
answer, the block waits (70_reset_and_hazards.md section 1). That this is a step which takes nothing and changes
nothing is the model's choice (assumption 8), and so is that a blocked consumer's commands stay at the ports
(assumption 6). -/
def Obligations.NothingPresentedNothingHappens : Prop :=
  ∀ s : State, s.heldWaitReady = false →
    (∀ p ∈ s.inputs, p.port = .command ∧ s.consumerFree = false) → step s = .next s

/-- A consumer whose `WAIT` or `LEARN` has not been answered presents no other command (00_scope.md section 5).
That its commands keep their place in a list, and that the word a step takes is the first of another agent, is
the model's choice (assumption 6). -/
def Obligations.BlockedConsumerPresentsNoCommand : Prop :=
  ∀ (s t : State) (p : PortWord), s.consumerFree = false → s.fetch = some (p, t) →
    p.port ≠ .command ∧
    ∃ before after, s.inputs = before ++ p :: after ∧ t = { s with inputs := before ++ after } ∧
      ∀ q ∈ before, q.port = .command

/-- Events of one moment (60_exceptions.md section 4). An asserted reset is taken alone, the others discarded.
Else the edge comes before the `TMO`, and both before the command: for the three together and for any two of
them. -/
def Obligations.SimultaneousEventsInOrder : Prop :=
  ∀ s : State, s.inputs = [] → s.heldWaitReady = false →
    (∀ e tmo c, step (s.present ⟨some 1, e, tmo, c⟩) = exec .rst s) ∧
    (s.consumerWaiting = false →
      ∀ (r : Option (BitVec 1)) (e : BitVec 17) (c : BitVec 84) (d : Nat) (l : Level) (i : Instr),
      r ≠ some 1 → decode (.edge e) = .ok (.edge d l) → decode (.command c) = .ok i →
      (∃ u v, exec (.edge d l) s = .next u ∧ exec .tmo u = .next v ∧
        step (s.present ⟨r, some e, some 1, some c⟩) =
          .next { u with inputs := [.timer 1, .command c] } ∧
        step { u with inputs := [.timer 1, .command c] } = .next { v with inputs := [.command c] } ∧
        step { v with inputs := [.command c] } = exec i v ∧
        step (s.present ⟨r, some e, some 1, none⟩) = .next { u with inputs := [.timer 1] } ∧
        step { u with inputs := [.timer 1] } = .next v ∧
        step (s.present ⟨r, some e, none, some c⟩) = .next { u with inputs := [.command c] } ∧
        (u.learnPending = false → step { u with inputs := [.command c] } = exec i u)) ∧
      ∃ v, exec .tmo s = .next v ∧
        step (s.present ⟨r, none, some 1, some c⟩) = .next { v with inputs := [.command c] } ∧
        step { v with inputs := [.command c] } = exec i v)

/-- No state is one from which the block cannot continue (60_exceptions.md section 5). The spec gives a `WAIT`
with no message ready no step, and the empty ports none; that `exec` and `step` answer a next state there too is
the model's choice (assumption 6 for the `WAIT`, assumption 8 for the ports). -/
def Obligations.MachineNeverStops : Prop :=
  (∀ (i : Instr) (s : State), ∃ t, exec i s = .next t) ∧ ∀ s : State, ∃ t, step s = .next t

/-- A `WAIT` or a `LEARN` that finds no message ready gives no response in its own step; every other command
gives exactly one there (60_exceptions.md section 5, 20_memory.md section 4). -/
def Obligations.CommandsRespondOnce : Prop :=
  ∀ (i : Instr) (s t : State), i.port = .command → exec i s = .next t →
    (s.messageReady = false ∧ (i = .wait ∨ ∃ u, i = .learn u) → t.responses = s.responses) ∧
    (¬(s.messageReady = false ∧ (i = .wait ∨ ∃ u, i = .learn u)) →
      ∃ r, t.responses = s.responses ++ [r])

/-- 10_state.md R33: no step writes the configuration. -/
def Obligations.ConfigurationNeverWritten : Prop :=
  ∀ s t : State, step s = .next t → t.cfg = s.cfg

/-! ### Invariants -/

/-- 10_state.md section 2, (a) to (f): every step keeps the invariants of the decoder registers. -/
def Obligations.StepKeepsDecoderInv : Prop :=
  ∀ s t : State, DecoderInv s → step s = .next t → DecoderInv t

/-- 10_state.md section 2, (g): every step keeps the sentinel in `buf[0]` while the check is on. -/
def Obligations.StepKeepsSentinel : Prop :=
  ∀ s t : State, DecoderInv s → SentinelKept s → step s = .next t → SentinelKept t

/-- Every step keeps the counters within `CNT_W` bits, the registry's count within its capacity, and a pending
learn without a ready message (10_state.md sections 3 and 4, 42_registry.md section 5). -/
def Obligations.StepKeepsRanges : Prop :=
  ∀ s t : State, RangeInv s → step s = .next t → RangeInv t

/-- Every step keeps the store in its canonical form, and leaves every address outside the region alone
(20_memory.md section 1). -/
def Obligations.StepKeepsStoreForm : Prop :=
  ∀ s t : State, step s = .next t →
    (Memory.wf s.store → Memory.wf t.store) ∧
    ∀ addr : Nat, addr < s.cfg.storeBase ∨ s.cfg.storeBase + 48 < addr →
      t.store.read addr = s.store.read addr

/-- The invariants hold right after reset. The clause on the configuration is the model's choice: it speaks of
`cfg_ref`, with which `State.reset` is built (assumption 3; 00_scope.md section 4). No other clause depends on a
value the model names at reset (assumptions 1 and 5). -/
def Obligations.InvariantsHoldAtReset : Prop :=
  DecoderInv State.reset ∧ SentinelKept State.reset ∧ RangeInv State.reset ∧
    Memory.wf State.reset.store ∧ State.reset.cfg.wf

/-- 42_registry.md section 7: after a load (`RLOAD`, `SETUP`, `ERASE`) the working copy agrees with the
store. -/
def Obligations.LoadsMakeCoherent : Prop :=
  ∀ (i : Instr) (s t : State), i = .rload ∨ i = .setup ∨ i = .erase → Memory.wf s.store →
    exec i s = .next t → Coherent t

/-- 42_registry.md section 7: every step but one that resets keeps the working copy and the store in
agreement. -/
def Obligations.CoherenceKept : Prop :=
  ∀ s t : State, Memory.wf s.store → Coherent s → ¬StepResets s → step s = .next t → Coherent t

/-- 10_state.md section 4: `ERASE` makes exactly the entries below the count paired, and every later step but
one that resets keeps it so. -/
def Obligations.PairedBelowCountKept : Prop :=
  (∀ s : State, Memory.wf s.store →
    ∃ t, exec .erase s = .next t ∧ PairedBelowCount t ∧ Coherent t ∧ t.regCorrupt = false) ∧
  ∀ s t : State, Memory.wf s.store → Coherent s → PairedBelowCount s → s.regCorrupt = false →
    ¬StepResets s → step s = .next t → PairedBelowCount t ∧ t.regCorrupt = false

/-- 42_registry.md section 7: no operation but a load, an erase or a reset changes a present entry, moves it, or
lowers the count. -/
def Obligations.PresentEntriesStay : Prop :=
  ∀ (i : Instr) (s t : State), i ≠ .rload → i ≠ .setup → i ≠ .erase → i ≠ .rst → exec i s = .next t →
    s.regCount.toNat ≤ t.regCount.toNat ∧
    ∀ k : EntryIndex, k.val < s.regCount.toNat → t.ent[k.val] = s.ent[k.val]

/-! ### Independence -/

/-- 42_registry.md section 7: `RLOAD`, `LOOKUP`, `ADD` and `ERASE` commute with an edge that fires no learn,
in state and in responses. -/
def Obligations.RegistryCommutesWithEdge : Prop :=
  ∀ (c : Instr) (s : State) (d : Nat) (l : Level),
    (c = .rload ∨ (∃ m, c = .lookup m) ∨ (∃ m, c = .add m) ∨ c = .erase) → ¬FiresLearn d l s →
    ∃ a b t, exec c s = .next a ∧ exec (.edge d l) s = .next b ∧
      exec (.edge d l) a = .next t ∧ exec c b = .next t

/-- 10_state.md sections 1 and 7: the bytes of `buf` not yet collected, whose reset value is unspecified, can
never be observed: two states that differ only there, and in the model's count of free values (assumption 2),
give steps that differ only there. -/
def Obligations.DeadBufferUnobservable : Prop :=
  ∀ s t : State, DecoderInv s → SameButDeadBuffer s t →
    ∃ s' t', step s = .next s' ∧ step t = .next t' ∧ SameButDeadBuffer s' t'

/-- 20_memory.md section 3: the operations that make no store access, an edge that fires no learn among
them. -/
def Obligations.OperationsWithoutStoreAccess : Prop :=
  ∀ (i : Instr) (s t : State), exec i s = .next t →
    (∀ d l, i = .edge d l → ¬FiresLearn d l s) → i ≠ .rload → i ≠ .setup → i ≠ .erase →
    (∀ m, i ≠ .add m) → (∀ u, i ≠ .learn u) → t.store = s.store ∧ t.storeTrace = s.storeTrace

/-! ### Whole frames -/

/-- 41_decoder.md section 5 (a): the edges of `FRAME m`, with any durations the bands admit, deliver `m` from
every state with no message ready and no learn pending. -/
def Obligations.FrameRoundTrip : Prop :=
  ∀ (s : State) (m : Message) (u : Timing), s.cfg.wf → u.Fits s.cfg → s.messageReady = false →
    s.learnPending = false → (s.cfg.sentinelMode = .off ∨ m[0] = s.cfg.sentinel) →
    ∃ t, feed (frameEdges u .low m) s = .next t ∧ t.messageReady = true ∧ t.buf = m

/-- 41_decoder.md section 5 (d): in mode `RECOVER`, a frame that lost any one of its first six pulses delivers
the same message. -/
def Obligations.FrameWithLostPulse : Prop :=
  ∀ (s : State) (m : Message) (u : Timing) (k : Nat), s.cfg.wf → u.Fits s.cfg →
    s.messageReady = false → s.learnPending = false → s.cfg.sentinelMode = .recover →
    s.cfg.sentinel = 0xF6 → s.cfg.sentinelAlt = 0xED → m[0] = 0xF6 → k < 6 →
    ∃ t, feed (burstEdges u .low ((frameSymbols m).eraseIdx k)) s = .next t ∧
      t.messageReady = true ∧ t.buf = m

/-! ### The width of a duration -/

/-- `DUR_W` is not observable (00_scope.md section 4): what the Edge Timer presents for a duration, cut to `DUR_W`
bits and to the field of an edge word, acts as the duration itself, if both hold `LONG_LIM`. That the field keeps
its 16 bits in every configuration is the model's reading (assumption 4). -/
def Obligations.DurationWidthUnseen : Prop :=
  ∀ (s : State) (ticks : Nat) (l : Level), s.cfg.wf → s.cfg.longLim < 2 ^ s.cfg.durWidth →
    s.cfg.longLim < 2 ^ edgeFieldWidth →
    ∃ d, d < 2 ^ s.cfg.durWidth ∧ decode (.edge (presentedEdge s.cfg ticks l)) = .ok (.edge d l) ∧
      exec (.edge d l) s = exec (.edge ticks l) s
end

