-- ==== Sys2Proof/Laws/State.lean ====
section
/-! SUPPORT. What each named update does to each field of the state, one lemma a field, so that no later proof
unfolds a record update. -/

namespace Sys2Proof.Machine

variable (s : State)

/-! ### memReads -/

@[simp] theorem State.memReads_cfg (as : List Offset) : (s.memReads as).cfg = s.cfg := rfl
@[simp] theorem State.memReads_packetStarted (as : List Offset) :
    (s.memReads as).packetStarted = s.packetStarted := rfl
@[simp] theorem State.memReads_byteStarted (as : List Offset) :
    (s.memReads as).byteStarted = s.byteStarted := rfl
@[simp] theorem State.memReads_bitCount (as : List Offset) : (s.memReads as).bitCount = s.bitCount := rfl
@[simp] theorem State.memReads_byteAccum (as : List Offset) : (s.memReads as).byteAccum = s.byteAccum := rfl
@[simp] theorem State.memReads_bytesCollected (as : List Offset) :
    (s.memReads as).bytesCollected = s.bytesCollected := rfl
@[simp] theorem State.memReads_buf (as : List Offset) : (s.memReads as).buf = s.buf := rfl
@[simp] theorem State.memReads_messageReady (as : List Offset) :
    (s.memReads as).messageReady = s.messageReady := rfl
@[simp] theorem State.memReads_cnt (as : List Offset) : (s.memReads as).cnt = s.cnt := rfl
@[simp] theorem State.memReads_learnPending (as : List Offset) :
    (s.memReads as).learnPending = s.learnPending := rfl
@[simp] theorem State.memReads_regCount (as : List Offset) : (s.memReads as).regCount = s.regCount := rfl
@[simp] theorem State.memReads_ent (as : List Offset) : (s.memReads as).ent = s.ent := rfl
@[simp] theorem State.memReads_regCorrupt (as : List Offset) :
    (s.memReads as).regCorrupt = s.regCorrupt := rfl
@[simp] theorem State.memReads_store (as : List Offset) : (s.memReads as).store = s.store := rfl
@[simp] theorem State.memReads_consumerWaiting (as : List Offset) :
    (s.memReads as).consumerWaiting = s.consumerWaiting := rfl
@[simp] theorem State.memReads_inputs (as : List Offset) : (s.memReads as).inputs = s.inputs := rfl
@[simp] theorem State.memReads_responses (as : List Offset) : (s.memReads as).responses = s.responses := rfl
@[simp] theorem State.memReads_storeTrace (as : List Offset) :
    (s.memReads as).storeTrace = s.storeTrace ++ as.map readRequest := rfl
@[simp] theorem State.memReads_learnStarts (as : List Offset) :
    (s.memReads as).learnStarts = s.learnStarts := rfl
@[simp] theorem State.memReads_freeCount (as : List Offset) : (s.memReads as).freeCount = s.freeCount := rfl

/-! ### memWrite -/

@[simp] theorem State.memWrite_cfg (a : Offset) (v : Byte) : (s.memWrite a v).cfg = s.cfg := rfl
@[simp] theorem State.memWrite_packetStarted (a : Offset) (v : Byte) :
    (s.memWrite a v).packetStarted = s.packetStarted := rfl
@[simp] theorem State.memWrite_byteStarted (a : Offset) (v : Byte) :
    (s.memWrite a v).byteStarted = s.byteStarted := rfl
@[simp] theorem State.memWrite_bitCount (a : Offset) (v : Byte) :
    (s.memWrite a v).bitCount = s.bitCount := rfl
@[simp] theorem State.memWrite_byteAccum (a : Offset) (v : Byte) :
    (s.memWrite a v).byteAccum = s.byteAccum := rfl
@[simp] theorem State.memWrite_bytesCollected (a : Offset) (v : Byte) :
    (s.memWrite a v).bytesCollected = s.bytesCollected := rfl
@[simp] theorem State.memWrite_buf (a : Offset) (v : Byte) : (s.memWrite a v).buf = s.buf := rfl
@[simp] theorem State.memWrite_messageReady (a : Offset) (v : Byte) :
    (s.memWrite a v).messageReady = s.messageReady := rfl
@[simp] theorem State.memWrite_cnt (a : Offset) (v : Byte) : (s.memWrite a v).cnt = s.cnt := rfl
@[simp] theorem State.memWrite_learnPending (a : Offset) (v : Byte) :
    (s.memWrite a v).learnPending = s.learnPending := rfl
@[simp] theorem State.memWrite_regCount (a : Offset) (v : Byte) :
    (s.memWrite a v).regCount = s.regCount := rfl
@[simp] theorem State.memWrite_ent (a : Offset) (v : Byte) : (s.memWrite a v).ent = s.ent := rfl
@[simp] theorem State.memWrite_regCorrupt (a : Offset) (v : Byte) :
    (s.memWrite a v).regCorrupt = s.regCorrupt := rfl
@[simp] theorem State.memWrite_store (a : Offset) (v : Byte) :
    (s.memWrite a v).store = s.store.write (storeAddress s.cfg a) v := rfl
@[simp] theorem State.memWrite_consumerWaiting (a : Offset) (v : Byte) :
    (s.memWrite a v).consumerWaiting = s.consumerWaiting := rfl
@[simp] theorem State.memWrite_inputs (a : Offset) (v : Byte) : (s.memWrite a v).inputs = s.inputs := rfl
@[simp] theorem State.memWrite_responses (a : Offset) (v : Byte) :
    (s.memWrite a v).responses = s.responses := rfl
@[simp] theorem State.memWrite_storeTrace (a : Offset) (v : Byte) :
    (s.memWrite a v).storeTrace = s.storeTrace ++ [writeRequest a v] := rfl
@[simp] theorem State.memWrite_learnStarts (a : Offset) (v : Byte) :
    (s.memWrite a v).learnStarts = s.learnStarts := rfl
@[simp] theorem State.memWrite_freeCount (a : Offset) (v : Byte) :
    (s.memWrite a v).freeCount = s.freeCount := rfl

/-! ### respond -/

@[simp] theorem State.respond_cfg (ok : Bool) (data : BitVec 80) : (s.respond ok data).cfg = s.cfg := rfl
@[simp] theorem State.respond_packetStarted (ok : Bool) (data : BitVec 80) :
    (s.respond ok data).packetStarted = s.packetStarted := rfl
@[simp] theorem State.respond_byteStarted (ok : Bool) (data : BitVec 80) :
    (s.respond ok data).byteStarted = s.byteStarted := rfl
@[simp] theorem State.respond_bitCount (ok : Bool) (data : BitVec 80) :
    (s.respond ok data).bitCount = s.bitCount := rfl
@[simp] theorem State.respond_byteAccum (ok : Bool) (data : BitVec 80) :
    (s.respond ok data).byteAccum = s.byteAccum := rfl
@[simp] theorem State.respond_bytesCollected (ok : Bool) (data : BitVec 80) :
    (s.respond ok data).bytesCollected = s.bytesCollected := rfl
@[simp] theorem State.respond_buf (ok : Bool) (data : BitVec 80) : (s.respond ok data).buf = s.buf := rfl
@[simp] theorem State.respond_messageReady (ok : Bool) (data : BitVec 80) :
    (s.respond ok data).messageReady = s.messageReady := rfl
@[simp] theorem State.respond_cnt (ok : Bool) (data : BitVec 80) : (s.respond ok data).cnt = s.cnt := rfl
@[simp] theorem State.respond_learnPending (ok : Bool) (data : BitVec 80) :
    (s.respond ok data).learnPending = s.learnPending := rfl
@[simp] theorem State.respond_regCount (ok : Bool) (data : BitVec 80) :
    (s.respond ok data).regCount = s.regCount := rfl
@[simp] theorem State.respond_ent (ok : Bool) (data : BitVec 80) : (s.respond ok data).ent = s.ent := rfl
@[simp] theorem State.respond_regCorrupt (ok : Bool) (data : BitVec 80) :
    (s.respond ok data).regCorrupt = s.regCorrupt := rfl
@[simp] theorem State.respond_store (ok : Bool) (data : BitVec 80) :
    (s.respond ok data).store = s.store := rfl
@[simp] theorem State.respond_consumerWaiting (ok : Bool) (data : BitVec 80) :
    (s.respond ok data).consumerWaiting = s.consumerWaiting := rfl
@[simp] theorem State.respond_inputs (ok : Bool) (data : BitVec 80) :
    (s.respond ok data).inputs = s.inputs := rfl
@[simp] theorem State.respond_responses (ok : Bool) (data : BitVec 80) :
    (s.respond ok data).responses = s.responses ++ [⟨ok, data⟩] := rfl
@[simp] theorem State.respond_storeTrace (ok : Bool) (data : BitVec 80) :
    (s.respond ok data).storeTrace = s.storeTrace := rfl
@[simp] theorem State.respond_learnStarts (ok : Bool) (data : BitVec 80) :
    (s.respond ok data).learnStarts = s.learnStarts := rfl
@[simp] theorem State.respond_freeCount (ok : Bool) (data : BitVec 80) :
    (s.respond ok data).freeCount = s.freeCount := rfl

/-! ### bump -/

@[simp] theorem State.bump_cfg (k : CounterIndex) : (s.bump k).cfg = s.cfg := rfl
@[simp] theorem State.bump_packetStarted (k : CounterIndex) :
    (s.bump k).packetStarted = s.packetStarted := rfl
@[simp] theorem State.bump_byteStarted (k : CounterIndex) : (s.bump k).byteStarted = s.byteStarted := rfl
@[simp] theorem State.bump_bitCount (k : CounterIndex) : (s.bump k).bitCount = s.bitCount := rfl
@[simp] theorem State.bump_byteAccum (k : CounterIndex) : (s.bump k).byteAccum = s.byteAccum := rfl
@[simp] theorem State.bump_bytesCollected (k : CounterIndex) :
    (s.bump k).bytesCollected = s.bytesCollected := rfl
@[simp] theorem State.bump_buf (k : CounterIndex) : (s.bump k).buf = s.buf := rfl
@[simp] theorem State.bump_messageReady (k : CounterIndex) : (s.bump k).messageReady = s.messageReady := rfl
@[simp] theorem State.bump_cnt (k : CounterIndex) :
    (s.bump k).cnt = s.cnt.set k (counterNext s.cfg s.cnt[k.val]) := rfl
@[simp] theorem State.bump_learnPending (k : CounterIndex) : (s.bump k).learnPending = s.learnPending := rfl
@[simp] theorem State.bump_regCount (k : CounterIndex) : (s.bump k).regCount = s.regCount := rfl
@[simp] theorem State.bump_ent (k : CounterIndex) : (s.bump k).ent = s.ent := rfl
@[simp] theorem State.bump_regCorrupt (k : CounterIndex) : (s.bump k).regCorrupt = s.regCorrupt := rfl
@[simp] theorem State.bump_store (k : CounterIndex) : (s.bump k).store = s.store := rfl
@[simp] theorem State.bump_consumerWaiting (k : CounterIndex) :
    (s.bump k).consumerWaiting = s.consumerWaiting := rfl
@[simp] theorem State.bump_inputs (k : CounterIndex) : (s.bump k).inputs = s.inputs := rfl
@[simp] theorem State.bump_responses (k : CounterIndex) : (s.bump k).responses = s.responses := rfl
@[simp] theorem State.bump_storeTrace (k : CounterIndex) : (s.bump k).storeTrace = s.storeTrace := rfl
@[simp] theorem State.bump_learnStarts (k : CounterIndex) : (s.bump k).learnStarts = s.learnStarts := rfl
@[simp] theorem State.bump_freeCount (k : CounterIndex) : (s.bump k).freeCount = s.freeCount := rfl

/-! ### abort -/

@[simp] theorem State.abort_cfg : s.abort.cfg = s.cfg := rfl
@[simp] theorem State.abort_packetStarted : s.abort.packetStarted = false := rfl
@[simp] theorem State.abort_byteStarted : s.abort.byteStarted = false := rfl
@[simp] theorem State.abort_bitCount : s.abort.bitCount = 0 := rfl
@[simp] theorem State.abort_byteAccum : s.abort.byteAccum = 0 := rfl
@[simp] theorem State.abort_bytesCollected : s.abort.bytesCollected = 0 := rfl
@[simp] theorem State.abort_buf : s.abort.buf = s.buf := rfl
@[simp] theorem State.abort_messageReady : s.abort.messageReady = s.messageReady := rfl
@[simp] theorem State.abort_cnt : s.abort.cnt = s.cnt := rfl
@[simp] theorem State.abort_learnPending : s.abort.learnPending = s.learnPending := rfl
@[simp] theorem State.abort_regCount : s.abort.regCount = s.regCount := rfl
@[simp] theorem State.abort_ent : s.abort.ent = s.ent := rfl
@[simp] theorem State.abort_regCorrupt : s.abort.regCorrupt = s.regCorrupt := rfl
@[simp] theorem State.abort_store : s.abort.store = s.store := rfl
@[simp] theorem State.abort_consumerWaiting : s.abort.consumerWaiting = s.consumerWaiting := rfl
@[simp] theorem State.abort_inputs : s.abort.inputs = s.inputs := rfl
@[simp] theorem State.abort_responses : s.abort.responses = s.responses := rfl
@[simp] theorem State.abort_storeTrace : s.abort.storeTrace = s.storeTrace := rfl
@[simp] theorem State.abort_learnStarts : s.abort.learnStarts = s.learnStarts := rfl
@[simp] theorem State.abort_freeCount : s.abort.freeCount = s.freeCount := rfl

/-! ### raiseViolation -/

@[simp] theorem State.raiseViolation_cfg (v : Violation) : (s.raiseViolation v).cfg = s.cfg := rfl
@[simp] theorem State.raiseViolation_packetStarted (v : Violation) :
    (s.raiseViolation v).packetStarted = false := rfl
@[simp] theorem State.raiseViolation_byteStarted (v : Violation) :
    (s.raiseViolation v).byteStarted = false := rfl
@[simp] theorem State.raiseViolation_bitCount (v : Violation) : (s.raiseViolation v).bitCount = 0 := rfl
@[simp] theorem State.raiseViolation_byteAccum (v : Violation) : (s.raiseViolation v).byteAccum = 0 := rfl
@[simp] theorem State.raiseViolation_bytesCollected (v : Violation) :
    (s.raiseViolation v).bytesCollected = 0 := rfl
@[simp] theorem State.raiseViolation_buf (v : Violation) : (s.raiseViolation v).buf = s.buf := rfl
@[simp] theorem State.raiseViolation_messageReady (v : Violation) :
    (s.raiseViolation v).messageReady = s.messageReady := rfl
@[simp] theorem State.raiseViolation_cnt (v : Violation) :
    (s.raiseViolation v).cnt = s.cnt.set v.code (counterNext s.cfg s.cnt[v.code.val]) := rfl
@[simp] theorem State.raiseViolation_learnPending (v : Violation) :
    (s.raiseViolation v).learnPending = s.learnPending := rfl
@[simp] theorem State.raiseViolation_regCount (v : Violation) :
    (s.raiseViolation v).regCount = s.regCount := rfl
@[simp] theorem State.raiseViolation_ent (v : Violation) : (s.raiseViolation v).ent = s.ent := rfl
@[simp] theorem State.raiseViolation_regCorrupt (v : Violation) :
    (s.raiseViolation v).regCorrupt = s.regCorrupt := rfl
@[simp] theorem State.raiseViolation_store (v : Violation) : (s.raiseViolation v).store = s.store := rfl
@[simp] theorem State.raiseViolation_consumerWaiting (v : Violation) :
    (s.raiseViolation v).consumerWaiting = s.consumerWaiting := rfl
@[simp] theorem State.raiseViolation_inputs (v : Violation) : (s.raiseViolation v).inputs = s.inputs := rfl
@[simp] theorem State.raiseViolation_responses (v : Violation) :
    (s.raiseViolation v).responses = s.responses := rfl
@[simp] theorem State.raiseViolation_storeTrace (v : Violation) :
    (s.raiseViolation v).storeTrace = s.storeTrace := rfl
@[simp] theorem State.raiseViolation_learnStarts (v : Violation) :
    (s.raiseViolation v).learnStarts = s.learnStarts := rfl
@[simp] theorem State.raiseViolation_freeCount (v : Violation) :
    (s.raiseViolation v).freeCount = s.freeCount := rfl

/-! ### decInit -/

@[simp] theorem State.decInit_cfg : s.decInit.cfg = s.cfg := rfl
@[simp] theorem State.decInit_packetStarted : s.decInit.packetStarted = false := rfl
@[simp] theorem State.decInit_byteStarted : s.decInit.byteStarted = false := rfl
@[simp] theorem State.decInit_bitCount : s.decInit.bitCount = 0 := rfl
@[simp] theorem State.decInit_byteAccum : s.decInit.byteAccum = 0 := rfl
@[simp] theorem State.decInit_bytesCollected : s.decInit.bytesCollected = 0 := rfl
@[simp] theorem State.decInit_buf : s.decInit.buf = s.buf := rfl
@[simp] theorem State.decInit_messageReady : s.decInit.messageReady = s.messageReady := rfl
@[simp] theorem State.decInit_cnt : s.decInit.cnt = s.cnt := rfl
@[simp] theorem State.decInit_learnPending : s.decInit.learnPending = s.learnPending := rfl
@[simp] theorem State.decInit_regCount : s.decInit.regCount = s.regCount := rfl
@[simp] theorem State.decInit_ent : s.decInit.ent = s.ent := rfl
@[simp] theorem State.decInit_regCorrupt : s.decInit.regCorrupt = s.regCorrupt := rfl
@[simp] theorem State.decInit_store : s.decInit.store = s.store := rfl
@[simp] theorem State.decInit_consumerWaiting : s.decInit.consumerWaiting = s.consumerWaiting := rfl
@[simp] theorem State.decInit_inputs : s.decInit.inputs = s.inputs := rfl
@[simp] theorem State.decInit_responses : s.decInit.responses = s.responses := rfl
@[simp] theorem State.decInit_storeTrace : s.decInit.storeTrace = s.storeTrace := rfl
@[simp] theorem State.decInit_learnStarts : s.decInit.learnStarts = s.learnStarts := rfl
@[simp] theorem State.decInit_freeCount : s.decInit.freeCount = s.freeCount := rfl

/-! ### startPacket -/

@[simp] theorem State.startPacket_cfg : s.startPacket.cfg = s.cfg := rfl
@[simp] theorem State.startPacket_packetStarted : s.startPacket.packetStarted = true := rfl
@[simp] theorem State.startPacket_byteStarted : s.startPacket.byteStarted = false := rfl
@[simp] theorem State.startPacket_bitCount : s.startPacket.bitCount = 0 := rfl
@[simp] theorem State.startPacket_byteAccum : s.startPacket.byteAccum = 0 := rfl
@[simp] theorem State.startPacket_bytesCollected : s.startPacket.bytesCollected = 0 := rfl
@[simp] theorem State.startPacket_buf : s.startPacket.buf = s.buf := rfl
@[simp] theorem State.startPacket_messageReady : s.startPacket.messageReady = s.messageReady := rfl
@[simp] theorem State.startPacket_cnt : s.startPacket.cnt = s.cnt := rfl
@[simp] theorem State.startPacket_learnPending : s.startPacket.learnPending = s.learnPending := rfl
@[simp] theorem State.startPacket_regCount : s.startPacket.regCount = s.regCount := rfl
@[simp] theorem State.startPacket_ent : s.startPacket.ent = s.ent := rfl
@[simp] theorem State.startPacket_regCorrupt : s.startPacket.regCorrupt = s.regCorrupt := rfl
@[simp] theorem State.startPacket_store : s.startPacket.store = s.store := rfl
@[simp] theorem State.startPacket_consumerWaiting : s.startPacket.consumerWaiting = s.consumerWaiting := rfl
@[simp] theorem State.startPacket_inputs : s.startPacket.inputs = s.inputs := rfl
@[simp] theorem State.startPacket_responses : s.startPacket.responses = s.responses := rfl
@[simp] theorem State.startPacket_storeTrace : s.startPacket.storeTrace = s.storeTrace := rfl
@[simp] theorem State.startPacket_learnStarts : s.startPacket.learnStarts = s.learnStarts := rfl
@[simp] theorem State.startPacket_freeCount : s.startPacket.freeCount = s.freeCount := rfl

/-! ### startByte -/

@[simp] theorem State.startByte_cfg : s.startByte.cfg = s.cfg := rfl
@[simp] theorem State.startByte_packetStarted : s.startByte.packetStarted = s.packetStarted := rfl
@[simp] theorem State.startByte_byteStarted : s.startByte.byteStarted = true := rfl
@[simp] theorem State.startByte_bitCount : s.startByte.bitCount = 0 := rfl
@[simp] theorem State.startByte_byteAccum : s.startByte.byteAccum = 0 := rfl
@[simp] theorem State.startByte_bytesCollected : s.startByte.bytesCollected = s.bytesCollected := rfl
@[simp] theorem State.startByte_buf : s.startByte.buf = s.buf := rfl
@[simp] theorem State.startByte_messageReady : s.startByte.messageReady = s.messageReady := rfl
@[simp] theorem State.startByte_cnt : s.startByte.cnt = s.cnt := rfl
@[simp] theorem State.startByte_learnPending : s.startByte.learnPending = s.learnPending := rfl
@[simp] theorem State.startByte_regCount : s.startByte.regCount = s.regCount := rfl
@[simp] theorem State.startByte_ent : s.startByte.ent = s.ent := rfl
@[simp] theorem State.startByte_regCorrupt : s.startByte.regCorrupt = s.regCorrupt := rfl
@[simp] theorem State.startByte_store : s.startByte.store = s.store := rfl
@[simp] theorem State.startByte_consumerWaiting : s.startByte.consumerWaiting = s.consumerWaiting := rfl
@[simp] theorem State.startByte_inputs : s.startByte.inputs = s.inputs := rfl
@[simp] theorem State.startByte_responses : s.startByte.responses = s.responses := rfl
@[simp] theorem State.startByte_storeTrace : s.startByte.storeTrace = s.storeTrace := rfl
@[simp] theorem State.startByte_learnStarts : s.startByte.learnStarts = s.learnStarts := rfl
@[simp] theorem State.startByte_freeCount : s.startByte.freeCount = s.freeCount := rfl

/-! ### messageComplete -/

@[simp] theorem State.messageComplete_cfg : s.messageComplete.cfg = s.cfg := rfl
@[simp] theorem State.messageComplete_packetStarted : s.messageComplete.packetStarted = false := rfl
@[simp] theorem State.messageComplete_byteStarted : s.messageComplete.byteStarted = s.byteStarted := rfl
@[simp] theorem State.messageComplete_bitCount : s.messageComplete.bitCount = s.bitCount := rfl
@[simp] theorem State.messageComplete_byteAccum : s.messageComplete.byteAccum = s.byteAccum := rfl
@[simp] theorem State.messageComplete_bytesCollected :
    s.messageComplete.bytesCollected = s.bytesCollected := rfl
@[simp] theorem State.messageComplete_buf : s.messageComplete.buf = s.buf := rfl
@[simp] theorem State.messageComplete_messageReady : s.messageComplete.messageReady = true := rfl
@[simp] theorem State.messageComplete_cnt : s.messageComplete.cnt = s.cnt := rfl
@[simp] theorem State.messageComplete_learnPending : s.messageComplete.learnPending = s.learnPending := rfl
@[simp] theorem State.messageComplete_regCount : s.messageComplete.regCount = s.regCount := rfl
@[simp] theorem State.messageComplete_ent : s.messageComplete.ent = s.ent := rfl
@[simp] theorem State.messageComplete_regCorrupt : s.messageComplete.regCorrupt = s.regCorrupt := rfl
@[simp] theorem State.messageComplete_store : s.messageComplete.store = s.store := rfl
@[simp] theorem State.messageComplete_consumerWaiting :
    s.messageComplete.consumerWaiting = s.consumerWaiting := rfl
@[simp] theorem State.messageComplete_inputs : s.messageComplete.inputs = s.inputs := rfl
@[simp] theorem State.messageComplete_responses : s.messageComplete.responses = s.responses := rfl
@[simp] theorem State.messageComplete_storeTrace : s.messageComplete.storeTrace = s.storeTrace := rfl
@[simp] theorem State.messageComplete_learnStarts : s.messageComplete.learnStarts = s.learnStarts := rfl
@[simp] theorem State.messageComplete_freeCount : s.messageComplete.freeCount = s.freeCount := rfl

/-! ### recover -/

@[simp] theorem State.recover_cfg : s.recover.cfg = s.cfg := rfl
@[simp] theorem State.recover_packetStarted : s.recover.packetStarted = s.packetStarted := rfl
@[simp] theorem State.recover_byteStarted : s.recover.byteStarted = true := rfl
@[simp] theorem State.recover_bitCount : s.recover.bitCount = 0 := rfl
@[simp] theorem State.recover_byteAccum : s.recover.byteAccum = 0 := rfl
@[simp] theorem State.recover_bytesCollected : s.recover.bytesCollected = 1 := rfl
@[simp] theorem State.recover_buf : s.recover.buf = s.buf.set 0 s.cfg.sentinel := rfl
@[simp] theorem State.recover_messageReady : s.recover.messageReady = s.messageReady := rfl
@[simp] theorem State.recover_cnt : s.recover.cnt = s.cnt := rfl
@[simp] theorem State.recover_learnPending : s.recover.learnPending = s.learnPending := rfl
@[simp] theorem State.recover_regCount : s.recover.regCount = s.regCount := rfl
@[simp] theorem State.recover_ent : s.recover.ent = s.ent := rfl
@[simp] theorem State.recover_regCorrupt : s.recover.regCorrupt = s.regCorrupt := rfl
@[simp] theorem State.recover_store : s.recover.store = s.store := rfl
@[simp] theorem State.recover_consumerWaiting : s.recover.consumerWaiting = s.consumerWaiting := rfl
@[simp] theorem State.recover_inputs : s.recover.inputs = s.inputs := rfl
@[simp] theorem State.recover_responses : s.recover.responses = s.responses := rfl
@[simp] theorem State.recover_storeTrace : s.recover.storeTrace = s.storeTrace := rfl
@[simp] theorem State.recover_learnStarts : s.recover.learnStarts = s.learnStarts := rfl
@[simp] theorem State.recover_freeCount : s.recover.freeCount = s.freeCount := rfl

/-! ### storeFinishedByte -/

@[simp] theorem State.storeFinishedByte_cfg : s.storeFinishedByte.cfg = s.cfg := rfl
@[simp] theorem State.storeFinishedByte_packetStarted :
    s.storeFinishedByte.packetStarted = s.packetStarted := rfl
@[simp] theorem State.storeFinishedByte_byteStarted : s.storeFinishedByte.byteStarted = s.byteStarted := rfl
@[simp] theorem State.storeFinishedByte_bitCount : s.storeFinishedByte.bitCount = s.bitCount := rfl
@[simp] theorem State.storeFinishedByte_byteAccum : s.storeFinishedByte.byteAccum = s.byteAccum := rfl
@[simp] theorem State.storeFinishedByte_bytesCollected :
    s.storeFinishedByte.bytesCollected = s.bytesCollected + 1 := rfl
@[simp] theorem State.storeFinishedByte_buf :
    s.storeFinishedByte.buf = s.buf.setIfInBounds s.bytesCollected.toNat s.byteAccum := rfl
@[simp] theorem State.storeFinishedByte_messageReady :
    s.storeFinishedByte.messageReady = s.messageReady := rfl
@[simp] theorem State.storeFinishedByte_cnt : s.storeFinishedByte.cnt = s.cnt := rfl
@[simp] theorem State.storeFinishedByte_learnPending :
    s.storeFinishedByte.learnPending = s.learnPending := rfl
@[simp] theorem State.storeFinishedByte_regCount : s.storeFinishedByte.regCount = s.regCount := rfl
@[simp] theorem State.storeFinishedByte_ent : s.storeFinishedByte.ent = s.ent := rfl
@[simp] theorem State.storeFinishedByte_regCorrupt : s.storeFinishedByte.regCorrupt = s.regCorrupt := rfl
@[simp] theorem State.storeFinishedByte_store : s.storeFinishedByte.store = s.store := rfl
@[simp] theorem State.storeFinishedByte_consumerWaiting :
    s.storeFinishedByte.consumerWaiting = s.consumerWaiting := rfl
@[simp] theorem State.storeFinishedByte_inputs : s.storeFinishedByte.inputs = s.inputs := rfl
@[simp] theorem State.storeFinishedByte_responses : s.storeFinishedByte.responses = s.responses := rfl
@[simp] theorem State.storeFinishedByte_storeTrace : s.storeFinishedByte.storeTrace = s.storeTrace := rfl
@[simp] theorem State.storeFinishedByte_learnStarts : s.storeFinishedByte.learnStarts = s.learnStarts := rfl
@[simp] theorem State.storeFinishedByte_freeCount : s.storeFinishedByte.freeCount = s.freeCount := rfl

/-! ### shiftBit -/

@[simp] theorem State.shiftBit_cfg (b : Bool) : (s.shiftBit b).cfg = s.cfg := rfl
@[simp] theorem State.shiftBit_packetStarted (b : Bool) :
    (s.shiftBit b).packetStarted = s.packetStarted := rfl
@[simp] theorem State.shiftBit_byteStarted (b : Bool) : (s.shiftBit b).byteStarted = s.byteStarted := rfl
@[simp] theorem State.shiftBit_bitCount (b : Bool) : (s.shiftBit b).bitCount = s.bitCount + 1 := rfl
@[simp] theorem State.shiftBit_byteAccum (b : Bool) :
    (s.shiftBit b).byteAccum = shiftByte s.byteAccum b := rfl
@[simp] theorem State.shiftBit_bytesCollected (b : Bool) :
    (s.shiftBit b).bytesCollected = s.bytesCollected := rfl
@[simp] theorem State.shiftBit_buf (b : Bool) : (s.shiftBit b).buf = s.buf := rfl
@[simp] theorem State.shiftBit_messageReady (b : Bool) : (s.shiftBit b).messageReady = s.messageReady := rfl
@[simp] theorem State.shiftBit_cnt (b : Bool) : (s.shiftBit b).cnt = s.cnt := rfl
@[simp] theorem State.shiftBit_learnPending (b : Bool) : (s.shiftBit b).learnPending = s.learnPending := rfl
@[simp] theorem State.shiftBit_regCount (b : Bool) : (s.shiftBit b).regCount = s.regCount := rfl
@[simp] theorem State.shiftBit_ent (b : Bool) : (s.shiftBit b).ent = s.ent := rfl
@[simp] theorem State.shiftBit_regCorrupt (b : Bool) : (s.shiftBit b).regCorrupt = s.regCorrupt := rfl
@[simp] theorem State.shiftBit_store (b : Bool) : (s.shiftBit b).store = s.store := rfl
@[simp] theorem State.shiftBit_consumerWaiting (b : Bool) :
    (s.shiftBit b).consumerWaiting = s.consumerWaiting := rfl
@[simp] theorem State.shiftBit_inputs (b : Bool) : (s.shiftBit b).inputs = s.inputs := rfl
@[simp] theorem State.shiftBit_responses (b : Bool) : (s.shiftBit b).responses = s.responses := rfl
@[simp] theorem State.shiftBit_storeTrace (b : Bool) : (s.shiftBit b).storeTrace = s.storeTrace := rfl
@[simp] theorem State.shiftBit_learnStarts (b : Bool) : (s.shiftBit b).learnStarts = s.learnStarts := rfl
@[simp] theorem State.shiftBit_freeCount (b : Bool) : (s.shiftBit b).freeCount = s.freeCount := rfl

/-! ### reload -/

@[simp] theorem State.reload_cfg : s.reload.cfg = s.cfg := rfl
@[simp] theorem State.reload_packetStarted : s.reload.packetStarted = s.packetStarted := rfl
@[simp] theorem State.reload_byteStarted : s.reload.byteStarted = s.byteStarted := rfl
@[simp] theorem State.reload_bitCount : s.reload.bitCount = s.bitCount := rfl
@[simp] theorem State.reload_byteAccum : s.reload.byteAccum = s.byteAccum := rfl
@[simp] theorem State.reload_bytesCollected : s.reload.bytesCollected = s.bytesCollected := rfl
@[simp] theorem State.reload_buf : s.reload.buf = s.buf := rfl
@[simp] theorem State.reload_messageReady : s.reload.messageReady = s.messageReady := rfl
@[simp] theorem State.reload_cnt : s.reload.cnt = s.cnt := rfl
@[simp] theorem State.reload_learnPending : s.reload.learnPending = s.learnPending := rfl
@[simp] theorem State.reload_regCount : s.reload.regCount = s.storedCount := rfl
@[simp] theorem State.reload_ent : s.reload.ent = Vector.ofFn s.storedEntry := rfl
@[simp] theorem State.reload_regCorrupt : s.reload.regCorrupt = s.storedCountCorrupt := rfl
@[simp] theorem State.reload_store : s.reload.store = s.store := rfl
@[simp] theorem State.reload_consumerWaiting : s.reload.consumerWaiting = s.consumerWaiting := rfl
@[simp] theorem State.reload_inputs : s.reload.inputs = s.inputs := rfl
@[simp] theorem State.reload_responses : s.reload.responses = s.responses := rfl
@[simp] theorem State.reload_storeTrace :
    s.reload.storeTrace = s.storeTrace ++ allOffsets.map readRequest := rfl
@[simp] theorem State.reload_learnStarts : s.reload.learnStarts = s.learnStarts := rfl
@[simp] theorem State.reload_freeCount : s.reload.freeCount = s.freeCount := rfl

/-! ### memWrites -/

@[simp] theorem State.memWrites_nil : s.memWrites [] = s := rfl

@[simp] theorem State.memWrites_cons (w : Offset × Byte) (ws : List (Offset × Byte)) :
    s.memWrites (w :: ws) = (s.memWrite w.1 w.2).memWrites ws := rfl

@[simp] theorem State.memWrites_cfg (ws : List (Offset × Byte)) : (s.memWrites ws).cfg = s.cfg := by
  induction ws generalizing s with
  | nil => rfl
  | cons w ws ih => simp [ih]

@[simp] theorem State.memWrites_packetStarted (ws : List (Offset × Byte)) : (s.memWrites ws).packetStarted = s.packetStarted := by
  induction ws generalizing s with
  | nil => rfl
  | cons w ws ih => simp [ih]

@[simp] theorem State.memWrites_byteStarted (ws : List (Offset × Byte)) : (s.memWrites ws).byteStarted = s.byteStarted := by
  induction ws generalizing s with
  | nil => rfl
  | cons w ws ih => simp [ih]

@[simp] theorem State.memWrites_bitCount (ws : List (Offset × Byte)) : (s.memWrites ws).bitCount = s.bitCount := by
  induction ws generalizing s with
  | nil => rfl
  | cons w ws ih => simp [ih]

@[simp] theorem State.memWrites_byteAccum (ws : List (Offset × Byte)) : (s.memWrites ws).byteAccum = s.byteAccum := by
  induction ws generalizing s with
  | nil => rfl
  | cons w ws ih => simp [ih]

@[simp] theorem State.memWrites_bytesCollected (ws : List (Offset × Byte)) : (s.memWrites ws).bytesCollected = s.bytesCollected := by
  induction ws generalizing s with
  | nil => rfl
  | cons w ws ih => simp [ih]

@[simp] theorem State.memWrites_buf (ws : List (Offset × Byte)) : (s.memWrites ws).buf = s.buf := by
  induction ws generalizing s with
  | nil => rfl
  | cons w ws ih => simp [ih]

@[simp] theorem State.memWrites_messageReady (ws : List (Offset × Byte)) : (s.memWrites ws).messageReady = s.messageReady := by
  induction ws generalizing s with
  | nil => rfl
  | cons w ws ih => simp [ih]

@[simp] theorem State.memWrites_cnt (ws : List (Offset × Byte)) : (s.memWrites ws).cnt = s.cnt := by
  induction ws generalizing s with
  | nil => rfl
  | cons w ws ih => simp [ih]

@[simp] theorem State.memWrites_learnPending (ws : List (Offset × Byte)) : (s.memWrites ws).learnPending = s.learnPending := by
  induction ws generalizing s with
  | nil => rfl
  | cons w ws ih => simp [ih]

@[simp] theorem State.memWrites_regCount (ws : List (Offset × Byte)) : (s.memWrites ws).regCount = s.regCount := by
  induction ws generalizing s with
  | nil => rfl
  | cons w ws ih => simp [ih]

@[simp] theorem State.memWrites_ent (ws : List (Offset × Byte)) : (s.memWrites ws).ent = s.ent := by
  induction ws generalizing s with
  | nil => rfl
  | cons w ws ih => simp [ih]

@[simp] theorem State.memWrites_regCorrupt (ws : List (Offset × Byte)) : (s.memWrites ws).regCorrupt = s.regCorrupt := by
  induction ws generalizing s with
  | nil => rfl
  | cons w ws ih => simp [ih]

@[simp] theorem State.memWrites_consumerWaiting (ws : List (Offset × Byte)) : (s.memWrites ws).consumerWaiting = s.consumerWaiting := by
  induction ws generalizing s with
  | nil => rfl
  | cons w ws ih => simp [ih]

@[simp] theorem State.memWrites_inputs (ws : List (Offset × Byte)) : (s.memWrites ws).inputs = s.inputs := by
  induction ws generalizing s with
  | nil => rfl
  | cons w ws ih => simp [ih]

@[simp] theorem State.memWrites_responses (ws : List (Offset × Byte)) : (s.memWrites ws).responses = s.responses := by
  induction ws generalizing s with
  | nil => rfl
  | cons w ws ih => simp [ih]

@[simp] theorem State.memWrites_learnStarts (ws : List (Offset × Byte)) : (s.memWrites ws).learnStarts = s.learnStarts := by
  induction ws generalizing s with
  | nil => rfl
  | cons w ws ih => simp [ih]

@[simp] theorem State.memWrites_freeCount (ws : List (Offset × Byte)) : (s.memWrites ws).freeCount = s.freeCount := by
  induction ws generalizing s with
  | nil => rfl
  | cons w ws ih => simp [ih]

@[simp] theorem State.memWrites_storeTrace (ws : List (Offset × Byte)) :
    (s.memWrites ws).storeTrace = s.storeTrace ++ ws.map fun w => writeRequest w.1 w.2 := by
  induction ws generalizing s with
  | nil => simp
  | cons w ws ih => simp [ih]

/-- A sequence of writes changes the store and the store port's trace, and nothing else. -/
theorem State.memWrites_eq (ws : List (Offset × Byte)) :
    s.memWrites ws = { s with
      store := (s.memWrites ws).store
      storeTrace := s.storeTrace ++ ws.map fun w => writeRequest w.1 w.2 } := by
  induction ws generalizing s with
  | nil => simp
  | cons w ws ih => rw [State.memWrites_cons, ih]; simp [State.memWrite]

end Sys2Proof.Machine
end

