-- ==== Sys2Proof/Laws/Memory.lean ====
section
/-! SUPPORT. The store: a read after a write, and that every memory operation keeps the canonical form. -/

namespace Sys2Proof.Machine

/-! ### One byte -/

theorem Memory.read_of_forall_ne {m : Memory} {a : Nat} (h : ∀ c ∈ m, c.1 ≠ a) :
    m.read a = Memory.unwritten := by
  induction m with
  | nil => rfl
  | cons c rest ih =>
    obtain ⟨b, u⟩ := c
    have hb : a ≠ b := fun e => h (b, u) (by simp) e.symm
    simp only [Memory.read, if_neg hb]
    exact ih fun d hd => h d (by simp [hd])

theorem Memory.read_insertFront (a : Nat) (v : Byte) (rest : Memory) (a' : Nat)
    (h : v = Memory.unwritten → rest.read a = Memory.unwritten) :
    Memory.read (Memory.insertFront a v rest) a' = if a' = a then v else rest.read a' := by
  unfold Memory.insertFront
  split
  · rename_i hv
    split
    · rename_i ha; rw [ha, h hv, hv]
    · rfl
  · rfl

/-- A write leaves every other address alone, whatever the form of the memory. -/
theorem Memory.read_write_of_ne {m : Memory} {a a' : Nat} (v : Byte) (h : a' ≠ a) :
    (m.write a v).read a' = m.read a' := by
  induction m with
  | nil => unfold Memory.write Memory.insertFront; split <;> simp [Memory.read, h]
  | cons c rest ih =>
    obtain ⟨b, u⟩ := c
    unfold Memory.write
    split
    · unfold Memory.insertFront; split <;> simp [Memory.read, h]
    · split
      · rename_i hab
        subst hab
        unfold Memory.insertFront; split <;> simp [Memory.read, h]
      · simp only [Memory.read]; rw [ih]

/-- A read after a write to the same address gives the byte written. -/
theorem Memory.read_write_same {m : Memory} (hm : Memory.wf m) (a : Nat) (v : Byte) :
    (m.write a v).read a = v := by
  induction m with
  | nil => unfold Memory.write Memory.insertFront; split <;> simp_all [Memory.read]
  | cons c rest ih =>
    obtain ⟨b, u⟩ := c
    obtain ⟨hsorted, hvals⟩ := hm
    rw [List.pairwise_cons] at hsorted
    have hrest : Memory.wf rest := ⟨hsorted.2, fun d hd => hvals d (by simp [hd])⟩
    unfold Memory.write
    split
    · rename_i hab
      rw [Memory.read_insertFront]
      · simp
      · intro _
        apply Memory.read_of_forall_ne
        intro d hd
        rcases List.mem_cons.1 hd with rfl | hd
        · simp only; omega
        · have := hsorted.1 d hd; simp only at this; omega
    · split
      · rename_i hab
        rw [Memory.read_insertFront]
        · simp
        · intro _
          apply Memory.read_of_forall_ne
          intro d hd
          have := hsorted.1 d hd; simp only at this; omega
      · rename_i h1 h2
        simp only [Memory.read, if_neg h2]
        exact ih hrest

/-- Read over write, at any address. -/
theorem Memory.read_write {m : Memory} (hm : Memory.wf m) (a : Nat) (v : Byte) (a' : Nat) :
    (m.write a v).read a' = if a' = a then v else m.read a' := by
  split
  · rename_i h; rw [h]; exact Memory.read_write_same hm a v
  · rename_i h; exact Memory.read_write_of_ne v h

/-! ### The canonical form -/

theorem Memory.wf_nil : Memory.wf [] := by decide

theorem Memory.mem_insertFront {a : Nat} {v : Byte} {rest : Memory} {c : Host.Cell}
    (h : c ∈ Memory.insertFront a v rest) : c = (a, v) ∨ c ∈ rest := by
  unfold Memory.insertFront at h
  split at h
  · exact .inr h
  · exact List.mem_cons.1 h

theorem Memory.mem_write {m : Memory} {a : Nat} {v : Byte} {c : Host.Cell} (h : c ∈ m.write a v) :
    c = (a, v) ∨ c ∈ m := by
  induction m with
  | nil => exact Memory.mem_insertFront h
  | cons d rest ih =>
    obtain ⟨b, u⟩ := d
    unfold Memory.write at h
    split at h
    · exact Memory.mem_insertFront h
    · split at h
      · exact (Memory.mem_insertFront h).imp id (List.mem_cons_of_mem _)
      · rcases List.mem_cons.1 h with rfl | h
        · simp
        · exact (ih h).imp id (List.mem_cons_of_mem _)

theorem Memory.wf_insertFront {a : Nat} {v : Byte} {rest : Memory} (hm : Memory.wf rest)
    (h : ∀ c ∈ rest, a < c.1) : Memory.wf (Memory.insertFront a v rest) := by
  unfold Memory.insertFront
  split
  · exact hm
  · rename_i hv
    exact ⟨List.pairwise_cons.2 ⟨h, hm.1⟩, fun c hc => by
      rcases List.mem_cons.1 hc with rfl | hc
      · exact hv
      · exact hm.2 c hc⟩

/-- A write keeps the canonical form. -/
theorem Memory.wf_write {m : Memory} (hm : Memory.wf m) (a : Nat) (v : Byte) : Memory.wf (m.write a v) := by
  induction m with
  | nil => exact Memory.wf_insertFront hm (by simp)
  | cons d rest ih =>
    obtain ⟨b, u⟩ := d
    obtain ⟨hsorted, hvals⟩ := hm
    have hs := List.pairwise_cons.1 hsorted
    have hrest : Memory.wf rest := ⟨hs.2, fun d hd => hvals d (by simp [hd])⟩
    unfold Memory.write
    split
    · rename_i hab
      refine Memory.wf_insertFront ⟨hsorted, hvals⟩ fun c hc => ?_
      rcases List.mem_cons.1 hc with rfl | hc
      · exact hab
      · have := hs.1 c hc; simp only at this; omega
    · split
      · rename_i hab
        refine Memory.wf_insertFront hrest fun c hc => ?_
        have := hs.1 c hc; simp only at this; omega
      · rename_i h1 h2
        have hw := ih hrest
        refine ⟨List.pairwise_cons.2 ⟨fun c hc => ?_, hw.1⟩, fun c hc => ?_⟩
        · rcases Memory.mem_write hc with rfl | hc
          · simp only; omega
          · exact hs.1 c hc
        · rcases List.mem_cons.1 hc with rfl | hc
          · exact hvals (b, u) (by simp)
          · exact hw.2 c hc

/-! ### The state's store -/

theorem storeAddress_inj {cfg : Config} {a b : Offset} : storeAddress cfg a = storeAddress cfg b ↔ a = b := by
  unfold storeAddress; rw [Fin.ext_iff]; omega

/-- A sequence of writes keeps the canonical form. -/
theorem State.wf_memWrites (s : State) (hm : Memory.wf s.store) (ws : List (Offset × Byte)) :
    Memory.wf (s.memWrites ws).store := by
  induction ws generalizing s with
  | nil => exact hm
  | cons w ws ih => exact ih _ (Memory.wf_write hm _ _)

/-- A sequence of writes leaves every address it does not name alone. -/
theorem State.read_memWrites_of_ne (s : State) (ws : List (Offset × Byte)) (addr : Nat)
    (h : ∀ w ∈ ws, storeAddress s.cfg w.1 ≠ addr) : (s.memWrites ws).store.read addr = s.store.read addr := by
  induction ws generalizing s with
  | nil => rfl
  | cons w ws ih =>
    rw [State.memWrites_cons, ih (s.memWrite w.1 w.2) fun x hx => h x (by simp [hx])]
    exact Memory.read_write_of_ne _ (h w (by simp)).symm

/-- What an offset holds after a sequence of writes: the last byte written there, else what it held. -/
theorem State.storeByte_memWrites (s : State) (hm : Memory.wf s.store) (ws : List (Offset × Byte))
    (a : Offset) :
    (s.memWrites ws).storeByte a =
      ((ws.reverse.find? fun w => decide (w.1 = a)).map Prod.snd).getD (s.storeByte a) := by
  induction ws generalizing s with
  | nil => rfl
  | cons w ws ih =>
    rw [State.memWrites_cons, ih _ (Memory.wf_write hm _ _), List.reverse_cons, List.find?_append]
    have hw : (s.memWrite w.1 w.2).storeByte a = if a = w.1 then w.2 else s.storeByte a := by
      simp only [State.storeByte, State.memWrite, Memory.read_write hm, storeAddress_inj]
    rw [hw]
    cases hf : ws.reverse.find? fun w => decide (w.1 = a) with
    | some x => simp
    | none =>
      by_cases ha : w.1 = a
      · simp [ha]
      · simp [ha, Ne.symm ha]

@[simp] theorem State.storeByte_memWrite (s : State) (hm : Memory.wf s.store) (a b : Offset) (v : Byte) :
    (s.memWrite a v).storeByte b = if b = a then v else s.storeByte b := by
  simp only [State.storeByte, State.memWrite, Memory.read_write hm, storeAddress_inj]

/-- `St` depends on the store and the configuration alone. -/
theorem State.storeByte_congr {s t : State} (hs : t.store = s.store) (hc : t.cfg = s.cfg) (a : Offset) :
    t.storeByte a = s.storeByte a := by
  simp only [State.storeByte, hs, hc]

end Sys2Proof.Machine
end

