-- ==== Sys2Proof/Laws/Operations.lean ====
section
/-! SUPPORT. What each shared operation can do: its cases, and the fields it leaves alone. -/

namespace Sys2Proof.Machine

variable (s : State)

/-! ### The decoder -/

/-! #### What `firstByteMismatch` leaves alone -/

@[simp] theorem State.firstByteMismatch_cfg : s.firstByteMismatch.cfg = s.cfg := by
  unfold State.firstByteMismatch; split <;> simp
@[simp] theorem State.firstByteMismatch_messageReady : s.firstByteMismatch.messageReady = s.messageReady := by
  unfold State.firstByteMismatch; split <;> simp
@[simp] theorem State.firstByteMismatch_cnt : s.firstByteMismatch.cnt = s.cnt := by
  unfold State.firstByteMismatch; split <;> simp
@[simp] theorem State.firstByteMismatch_learnPending : s.firstByteMismatch.learnPending = s.learnPending := by
  unfold State.firstByteMismatch; split <;> simp
@[simp] theorem State.firstByteMismatch_regCount : s.firstByteMismatch.regCount = s.regCount := by
  unfold State.firstByteMismatch; split <;> simp
@[simp] theorem State.firstByteMismatch_ent : s.firstByteMismatch.ent = s.ent := by
  unfold State.firstByteMismatch; split <;> simp
@[simp] theorem State.firstByteMismatch_regCorrupt : s.firstByteMismatch.regCorrupt = s.regCorrupt := by
  unfold State.firstByteMismatch; split <;> simp
@[simp] theorem State.firstByteMismatch_store : s.firstByteMismatch.store = s.store := by
  unfold State.firstByteMismatch; split <;> simp
@[simp] theorem State.firstByteMismatch_consumerWaiting : s.firstByteMismatch.consumerWaiting = s.consumerWaiting := by
  unfold State.firstByteMismatch; split <;> simp
@[simp] theorem State.firstByteMismatch_inputs : s.firstByteMismatch.inputs = s.inputs := by
  unfold State.firstByteMismatch; split <;> simp
@[simp] theorem State.firstByteMismatch_responses : s.firstByteMismatch.responses = s.responses := by
  unfold State.firstByteMismatch; split <;> simp
@[simp] theorem State.firstByteMismatch_storeTrace : s.firstByteMismatch.storeTrace = s.storeTrace := by
  unfold State.firstByteMismatch; split <;> simp
@[simp] theorem State.firstByteMismatch_learnStarts : s.firstByteMismatch.learnStarts = s.learnStarts := by
  unfold State.firstByteMismatch; split <;> simp
@[simp] theorem State.firstByteMismatch_freeCount : s.firstByteMismatch.freeCount = s.freeCount := by
  unfold State.firstByteMismatch; split <;> simp

/-! #### What `completeByte` leaves alone -/

@[simp] theorem State.completeByte_cfg : s.completeByte.cfg = s.cfg := by
  unfold State.completeByte; split_ifs <;> simp
@[simp] theorem State.completeByte_cnt : s.completeByte.cnt = s.cnt := by
  unfold State.completeByte; split_ifs <;> simp
@[simp] theorem State.completeByte_learnPending : s.completeByte.learnPending = s.learnPending := by
  unfold State.completeByte; split_ifs <;> simp
@[simp] theorem State.completeByte_regCount : s.completeByte.regCount = s.regCount := by
  unfold State.completeByte; split_ifs <;> simp
@[simp] theorem State.completeByte_ent : s.completeByte.ent = s.ent := by
  unfold State.completeByte; split_ifs <;> simp
@[simp] theorem State.completeByte_regCorrupt : s.completeByte.regCorrupt = s.regCorrupt := by
  unfold State.completeByte; split_ifs <;> simp
@[simp] theorem State.completeByte_store : s.completeByte.store = s.store := by
  unfold State.completeByte; split_ifs <;> simp
@[simp] theorem State.completeByte_consumerWaiting : s.completeByte.consumerWaiting = s.consumerWaiting := by
  unfold State.completeByte; split_ifs <;> simp
@[simp] theorem State.completeByte_inputs : s.completeByte.inputs = s.inputs := by
  unfold State.completeByte; split_ifs <;> simp
@[simp] theorem State.completeByte_responses : s.completeByte.responses = s.responses := by
  unfold State.completeByte; split_ifs <;> simp
@[simp] theorem State.completeByte_storeTrace : s.completeByte.storeTrace = s.storeTrace := by
  unfold State.completeByte; split_ifs <;> simp
@[simp] theorem State.completeByte_learnStarts : s.completeByte.learnStarts = s.learnStarts := by
  unfold State.completeByte; split_ifs <;> simp
@[simp] theorem State.completeByte_freeCount : s.completeByte.freeCount = s.freeCount := by
  unfold State.completeByte; split_ifs <;> simp

/-! #### What `shiftIn` leaves alone -/

@[simp] theorem State.shiftIn_cfg (b : Bool) : (s.shiftIn b).cfg = s.cfg := by
  unfold State.shiftIn; split <;> simp
@[simp] theorem State.shiftIn_cnt (b : Bool) : (s.shiftIn b).cnt = s.cnt := by
  unfold State.shiftIn; split <;> simp
@[simp] theorem State.shiftIn_learnPending (b : Bool) : (s.shiftIn b).learnPending = s.learnPending := by
  unfold State.shiftIn; split <;> simp
@[simp] theorem State.shiftIn_regCount (b : Bool) : (s.shiftIn b).regCount = s.regCount := by
  unfold State.shiftIn; split <;> simp
@[simp] theorem State.shiftIn_ent (b : Bool) : (s.shiftIn b).ent = s.ent := by
  unfold State.shiftIn; split <;> simp
@[simp] theorem State.shiftIn_regCorrupt (b : Bool) : (s.shiftIn b).regCorrupt = s.regCorrupt := by
  unfold State.shiftIn; split <;> simp
@[simp] theorem State.shiftIn_store (b : Bool) : (s.shiftIn b).store = s.store := by
  unfold State.shiftIn; split <;> simp
@[simp] theorem State.shiftIn_consumerWaiting (b : Bool) : (s.shiftIn b).consumerWaiting = s.consumerWaiting := by
  unfold State.shiftIn; split <;> simp
@[simp] theorem State.shiftIn_inputs (b : Bool) : (s.shiftIn b).inputs = s.inputs := by
  unfold State.shiftIn; split <;> simp
@[simp] theorem State.shiftIn_responses (b : Bool) : (s.shiftIn b).responses = s.responses := by
  unfold State.shiftIn; split <;> simp
@[simp] theorem State.shiftIn_storeTrace (b : Bool) : (s.shiftIn b).storeTrace = s.storeTrace := by
  unfold State.shiftIn; split <;> simp
@[simp] theorem State.shiftIn_learnStarts (b : Bool) : (s.shiftIn b).learnStarts = s.learnStarts := by
  unfold State.shiftIn; split <;> simp
@[simp] theorem State.shiftIn_freeCount (b : Bool) : (s.shiftIn b).freeCount = s.freeCount := by
  unfold State.shiftIn; split <;> simp

/-- A data bit that does not finish the byte (41_decoder.md R160). -/
theorem State.shiftIn_of_ne (b : Bool) (h : s.bitCount + 1 ≠ 8) : s.shiftIn b = s.shiftBit b := by
  unfold State.shiftIn; rw [if_neg]; simpa using h

/-- A data bit that finishes the byte (41_decoder.md R160). -/
theorem State.shiftIn_of_eq (b : Bool) (h : s.bitCount + 1 = 8) :
    s.shiftIn b = { s.shiftBit b with byteStarted := false }.completeByte := by
  unfold State.shiftIn; rw [if_pos]; simpa using h

/-- The byte is stored and it is not the tenth (41_decoder.md R161). -/
theorem State.completeByte_stored
    (hpass : s.bytesCollected = 0 → s.cfg.sentinelMode = .off ∨ s.byteAccum = s.cfg.sentinel)
    (hten : s.bytesCollected + 1 ≠ 10) : s.completeByte = s.storeFinishedByte := by
  unfold State.completeByte
  rw [if_neg, if_neg]
  · simpa using hten
  · rintro ⟨h0, hmode, hacc⟩
    exact (hpass h0).elim hmode hacc

/-- The byte stored is the tenth (41_decoder.md R161, R164). -/
theorem State.completeByte_tenth (h : s.bytesCollected = 9) :
    s.completeByte = s.storeFinishedByte.messageComplete := by
  unfold State.completeByte
  rw [if_neg, if_pos]
  · simp [h]
  · rintro ⟨h0, -⟩
    rw [h] at h0; exact absurd h0 (by decide)

/-- Byte 0 fails the check: repair or discard (41_decoder.md R162). -/
theorem State.completeByte_mismatch (h0 : s.bytesCollected = 0) (hmode : s.cfg.sentinelMode ≠ .off)
    (hacc : s.byteAccum ≠ s.cfg.sentinel) : s.completeByte = s.firstByteMismatch := by
  unfold State.completeByte; rw [if_pos ⟨h0, hmode, hacc⟩]

/-- Everything `complete_byte()` can do. -/
theorem State.completeByte_cases :
    (s.bytesCollected = 0 ∧ s.cfg.sentinelMode ≠ .off ∧ s.byteAccum ≠ s.cfg.sentinel ∧
      s.cfg.sentinelMode = .recover ∧ s.byteAccum = s.cfg.sentinelAlt ∧ s.completeByte = s.recover) ∨
    (s.bytesCollected = 0 ∧ s.cfg.sentinelMode ≠ .off ∧ s.byteAccum ≠ s.cfg.sentinel ∧
      ¬(s.cfg.sentinelMode = .recover ∧ s.byteAccum = s.cfg.sentinelAlt) ∧ s.completeByte = s.abort) ∨
    (¬(s.bytesCollected = 0 ∧ s.cfg.sentinelMode ≠ .off ∧ s.byteAccum ≠ s.cfg.sentinel) ∧
      s.bytesCollected + 1 = 10 ∧ s.completeByte = s.storeFinishedByte.messageComplete) ∨
    (¬(s.bytesCollected = 0 ∧ s.cfg.sentinelMode ≠ .off ∧ s.byteAccum ≠ s.cfg.sentinel) ∧
      s.bytesCollected + 1 ≠ 10 ∧ s.completeByte = s.storeFinishedByte) := by
  unfold State.completeByte State.firstByteMismatch
  split_ifs <;> simp_all

/-- Everything the decoder's action on a classified edge can do (41_decoder.md R152 to R159). -/
theorem State.onPulse_cases (c : PulseClass) :
    (c = .ignore ∧ s.onPulse c = s) ∨
    (∃ v, (c = .invalid v ∨ c = .longPulse ∧ v = .noStart ∧ (s.packetStarted = false ∨ s.byteStarted = false)) ∧
      s.onPulse c = s.raiseViolation v) ∨
    (c = .shortPulse ∧ s.packetStarted = false ∧ s.onPulse c = s.startPacket) ∨
    (c = .shortPulse ∧ s.packetStarted = true ∧ s.byteStarted = false ∧ s.onPulse c = s.startByte) ∨
    (∃ b, c = (if b then .shortPulse else .longPulse) ∧ s.packetStarted = true ∧ s.byteStarted = true ∧
      s.onPulse c = s.shiftIn b) := by
  cases c with
  | ignore => exact .inl ⟨rfl, rfl⟩
  | invalid v => exact .inr (.inl ⟨v, .inl rfl, rfl⟩)
  | shortPulse =>
    cases hp : s.packetStarted
    · exact .inr (.inr (.inl ⟨rfl, rfl, by simp [State.onPulse, hp]⟩))
    · cases hb : s.byteStarted
      · exact .inr (.inr (.inr (.inl ⟨rfl, rfl, rfl, by simp [State.onPulse, hp, hb]⟩)))
      · exact .inr (.inr (.inr (.inr ⟨true, rfl, rfl, rfl, by simp [State.onPulse, hp, hb]⟩)))
  | longPulse =>
    cases hp : s.packetStarted
    · exact .inr (.inl ⟨.noStart, .inr ⟨rfl, rfl, .inl rfl⟩, by simp [State.onPulse, hp]⟩)
    · cases hb : s.byteStarted
      · exact .inr (.inl ⟨.noStart, .inr ⟨rfl, rfl, .inr rfl⟩, by simp [State.onPulse, hp, hb]⟩)
      · exact .inr (.inr (.inr (.inr ⟨false, rfl, rfl, rfl, by simp [State.onPulse, hp, hb]⟩)))

/-! #### What `onPulse` leaves alone -/

@[simp] theorem State.onPulse_cfg (c : PulseClass) : (s.onPulse c).cfg = s.cfg := by
  rcases s.onPulse_cases c with ⟨_, h⟩ | ⟨v, _, h⟩ | ⟨_, _, h⟩ | ⟨_, _, _, h⟩ | ⟨b, _, _, _, h⟩ <;> rw [h] <;> simp
@[simp] theorem State.onPulse_learnPending (c : PulseClass) : (s.onPulse c).learnPending = s.learnPending := by
  rcases s.onPulse_cases c with ⟨_, h⟩ | ⟨v, _, h⟩ | ⟨_, _, h⟩ | ⟨_, _, _, h⟩ | ⟨b, _, _, _, h⟩ <;> rw [h] <;> simp
@[simp] theorem State.onPulse_regCount (c : PulseClass) : (s.onPulse c).regCount = s.regCount := by
  rcases s.onPulse_cases c with ⟨_, h⟩ | ⟨v, _, h⟩ | ⟨_, _, h⟩ | ⟨_, _, _, h⟩ | ⟨b, _, _, _, h⟩ <;> rw [h] <;> simp
@[simp] theorem State.onPulse_ent (c : PulseClass) : (s.onPulse c).ent = s.ent := by
  rcases s.onPulse_cases c with ⟨_, h⟩ | ⟨v, _, h⟩ | ⟨_, _, h⟩ | ⟨_, _, _, h⟩ | ⟨b, _, _, _, h⟩ <;> rw [h] <;> simp
@[simp] theorem State.onPulse_regCorrupt (c : PulseClass) : (s.onPulse c).regCorrupt = s.regCorrupt := by
  rcases s.onPulse_cases c with ⟨_, h⟩ | ⟨v, _, h⟩ | ⟨_, _, h⟩ | ⟨_, _, _, h⟩ | ⟨b, _, _, _, h⟩ <;> rw [h] <;> simp
@[simp] theorem State.onPulse_store (c : PulseClass) : (s.onPulse c).store = s.store := by
  rcases s.onPulse_cases c with ⟨_, h⟩ | ⟨v, _, h⟩ | ⟨_, _, h⟩ | ⟨_, _, _, h⟩ | ⟨b, _, _, _, h⟩ <;> rw [h] <;> simp
@[simp] theorem State.onPulse_consumerWaiting (c : PulseClass) : (s.onPulse c).consumerWaiting = s.consumerWaiting := by
  rcases s.onPulse_cases c with ⟨_, h⟩ | ⟨v, _, h⟩ | ⟨_, _, h⟩ | ⟨_, _, _, h⟩ | ⟨b, _, _, _, h⟩ <;> rw [h] <;> simp
@[simp] theorem State.onPulse_inputs (c : PulseClass) : (s.onPulse c).inputs = s.inputs := by
  rcases s.onPulse_cases c with ⟨_, h⟩ | ⟨v, _, h⟩ | ⟨_, _, h⟩ | ⟨_, _, _, h⟩ | ⟨b, _, _, _, h⟩ <;> rw [h] <;> simp
@[simp] theorem State.onPulse_responses (c : PulseClass) : (s.onPulse c).responses = s.responses := by
  rcases s.onPulse_cases c with ⟨_, h⟩ | ⟨v, _, h⟩ | ⟨_, _, h⟩ | ⟨_, _, _, h⟩ | ⟨b, _, _, _, h⟩ <;> rw [h] <;> simp
@[simp] theorem State.onPulse_storeTrace (c : PulseClass) : (s.onPulse c).storeTrace = s.storeTrace := by
  rcases s.onPulse_cases c with ⟨_, h⟩ | ⟨v, _, h⟩ | ⟨_, _, h⟩ | ⟨_, _, _, h⟩ | ⟨b, _, _, _, h⟩ <;> rw [h] <;> simp
@[simp] theorem State.onPulse_learnStarts (c : PulseClass) : (s.onPulse c).learnStarts = s.learnStarts := by
  rcases s.onPulse_cases c with ⟨_, h⟩ | ⟨v, _, h⟩ | ⟨_, _, h⟩ | ⟨_, _, _, h⟩ | ⟨b, _, _, _, h⟩ <;> rw [h] <;> simp
@[simp] theorem State.onPulse_freeCount (c : PulseClass) : (s.onPulse c).freeCount = s.freeCount := by
  rcases s.onPulse_cases c with ⟨_, h⟩ | ⟨v, _, h⟩ | ⟨_, _, h⟩ | ⟨_, _, _, h⟩ | ⟨b, _, _, _, h⟩ <;> rw [h] <;> simp

/-! ### The registry -/

/-! #### What `appendAt` leaves alone -/

@[simp] theorem State.appendAt_cfg (i : EntryIndex) (m : Message) : (s.appendAt i m).cfg = s.cfg := by
  simp [State.appendAt]
@[simp] theorem State.appendAt_packetStarted (i : EntryIndex) (m : Message) : (s.appendAt i m).packetStarted = s.packetStarted := by
  simp [State.appendAt]
@[simp] theorem State.appendAt_byteStarted (i : EntryIndex) (m : Message) : (s.appendAt i m).byteStarted = s.byteStarted := by
  simp [State.appendAt]
@[simp] theorem State.appendAt_bitCount (i : EntryIndex) (m : Message) : (s.appendAt i m).bitCount = s.bitCount := by
  simp [State.appendAt]
@[simp] theorem State.appendAt_byteAccum (i : EntryIndex) (m : Message) : (s.appendAt i m).byteAccum = s.byteAccum := by
  simp [State.appendAt]
@[simp] theorem State.appendAt_bytesCollected (i : EntryIndex) (m : Message) : (s.appendAt i m).bytesCollected = s.bytesCollected := by
  simp [State.appendAt]
@[simp] theorem State.appendAt_buf (i : EntryIndex) (m : Message) : (s.appendAt i m).buf = s.buf := by
  simp [State.appendAt]
@[simp] theorem State.appendAt_messageReady (i : EntryIndex) (m : Message) : (s.appendAt i m).messageReady = s.messageReady := by
  simp [State.appendAt]
@[simp] theorem State.appendAt_cnt (i : EntryIndex) (m : Message) : (s.appendAt i m).cnt = s.cnt := by
  simp [State.appendAt]
@[simp] theorem State.appendAt_learnPending (i : EntryIndex) (m : Message) : (s.appendAt i m).learnPending = s.learnPending := by
  simp [State.appendAt]
@[simp] theorem State.appendAt_regCorrupt (i : EntryIndex) (m : Message) : (s.appendAt i m).regCorrupt = s.regCorrupt := by
  simp [State.appendAt]
@[simp] theorem State.appendAt_consumerWaiting (i : EntryIndex) (m : Message) : (s.appendAt i m).consumerWaiting = s.consumerWaiting := by
  simp [State.appendAt]
@[simp] theorem State.appendAt_inputs (i : EntryIndex) (m : Message) : (s.appendAt i m).inputs = s.inputs := by
  simp [State.appendAt]
@[simp] theorem State.appendAt_responses (i : EntryIndex) (m : Message) : (s.appendAt i m).responses = s.responses := by
  simp [State.appendAt]
@[simp] theorem State.appendAt_learnStarts (i : EntryIndex) (m : Message) : (s.appendAt i m).learnStarts = s.learnStarts := by
  simp [State.appendAt]
@[simp] theorem State.appendAt_freeCount (i : EntryIndex) (m : Message) : (s.appendAt i m).freeCount = s.freeCount := by
  simp [State.appendAt]

@[simp] theorem State.appendAt_ent (i : EntryIndex) (m : Message) :
    (s.appendAt i m).ent = s.ent.set i (entryOfMessage m) := by simp [State.appendAt]

@[simp] theorem State.appendAt_regCount (i : EntryIndex) (m : Message) :
    (s.appendAt i m).regCount = BitVec.ofNat 3 (i.val + 1) := by simp [State.appendAt]

/-- The nine writes of an append: the slot ascending, then the count (42_registry.md R205). -/
theorem State.appendAt_storeTrace (i : EntryIndex) (m : Message) :
    (s.appendAt i m).storeTrace =
      s.storeTrace ++ (slotWrites i m ++ [((0 : Offset), BitVec.ofNat 8 (i.val + 1))]).map
        (fun w : Offset × Byte => writeRequest w.1 w.2) := by
  simp [State.appendAt]

/-- The store after an append, as one sequence of writes. -/
theorem State.appendAt_store (i : EntryIndex) (m : Message) :
    (s.appendAt i m).store = (s.memWrites (slotWrites i m ++ [(0, BitVec.ofNat 8 (i.val + 1))])).store := rfl

theorem State.wf_appendAt (hm : Memory.wf s.store) (i : EntryIndex) (m : Message) :
    Memory.wf (s.appendAt i m).store := by
  rw [State.appendAt_store]; exact s.wf_memWrites hm _

/-- The two outcomes of `ADD` (42_registry.md R195, R196). -/
theorem State.addMessage_cases (m : Message) :
    (∃ i : EntryIndex, i.val = s.regCount.toNat ∧
      s.addMessage m = (s.appendAt i m).respond true (indexData i)) ∨
    (6 ≤ s.regCount.toNat ∧ s.addMessage m = s.respond false 0) := by
  unfold State.addMessage
  split
  · rename_i h; exact .inl ⟨⟨_, h⟩, rfl, rfl⟩
  · rename_i h; exact .inr ⟨by omega, rfl⟩

/-! #### What `addMessage` leaves alone -/

@[simp] theorem State.addMessage_cfg (m : Message) : (s.addMessage m).cfg = s.cfg := by
  rcases s.addMessage_cases m with ⟨i, _, h⟩ | ⟨_, h⟩ <;> rw [h] <;> simp
@[simp] theorem State.addMessage_packetStarted (m : Message) : (s.addMessage m).packetStarted = s.packetStarted := by
  rcases s.addMessage_cases m with ⟨i, _, h⟩ | ⟨_, h⟩ <;> rw [h] <;> simp
@[simp] theorem State.addMessage_byteStarted (m : Message) : (s.addMessage m).byteStarted = s.byteStarted := by
  rcases s.addMessage_cases m with ⟨i, _, h⟩ | ⟨_, h⟩ <;> rw [h] <;> simp
@[simp] theorem State.addMessage_bitCount (m : Message) : (s.addMessage m).bitCount = s.bitCount := by
  rcases s.addMessage_cases m with ⟨i, _, h⟩ | ⟨_, h⟩ <;> rw [h] <;> simp
@[simp] theorem State.addMessage_byteAccum (m : Message) : (s.addMessage m).byteAccum = s.byteAccum := by
  rcases s.addMessage_cases m with ⟨i, _, h⟩ | ⟨_, h⟩ <;> rw [h] <;> simp
@[simp] theorem State.addMessage_bytesCollected (m : Message) : (s.addMessage m).bytesCollected = s.bytesCollected := by
  rcases s.addMessage_cases m with ⟨i, _, h⟩ | ⟨_, h⟩ <;> rw [h] <;> simp
@[simp] theorem State.addMessage_buf (m : Message) : (s.addMessage m).buf = s.buf := by
  rcases s.addMessage_cases m with ⟨i, _, h⟩ | ⟨_, h⟩ <;> rw [h] <;> simp
@[simp] theorem State.addMessage_messageReady (m : Message) : (s.addMessage m).messageReady = s.messageReady := by
  rcases s.addMessage_cases m with ⟨i, _, h⟩ | ⟨_, h⟩ <;> rw [h] <;> simp
@[simp] theorem State.addMessage_cnt (m : Message) : (s.addMessage m).cnt = s.cnt := by
  rcases s.addMessage_cases m with ⟨i, _, h⟩ | ⟨_, h⟩ <;> rw [h] <;> simp
@[simp] theorem State.addMessage_learnPending (m : Message) : (s.addMessage m).learnPending = s.learnPending := by
  rcases s.addMessage_cases m with ⟨i, _, h⟩ | ⟨_, h⟩ <;> rw [h] <;> simp
@[simp] theorem State.addMessage_regCorrupt (m : Message) : (s.addMessage m).regCorrupt = s.regCorrupt := by
  rcases s.addMessage_cases m with ⟨i, _, h⟩ | ⟨_, h⟩ <;> rw [h] <;> simp
@[simp] theorem State.addMessage_consumerWaiting (m : Message) : (s.addMessage m).consumerWaiting = s.consumerWaiting := by
  rcases s.addMessage_cases m with ⟨i, _, h⟩ | ⟨_, h⟩ <;> rw [h] <;> simp
@[simp] theorem State.addMessage_inputs (m : Message) : (s.addMessage m).inputs = s.inputs := by
  rcases s.addMessage_cases m with ⟨i, _, h⟩ | ⟨_, h⟩ <;> rw [h] <;> simp
@[simp] theorem State.addMessage_learnStarts (m : Message) : (s.addMessage m).learnStarts = s.learnStarts := by
  rcases s.addMessage_cases m with ⟨i, _, h⟩ | ⟨_, h⟩ <;> rw [h] <;> simp
@[simp] theorem State.addMessage_freeCount (m : Message) : (s.addMessage m).freeCount = s.freeCount := by
  rcases s.addMessage_cases m with ⟨i, _, h⟩ | ⟨_, h⟩ <;> rw [h] <;> simp

theorem State.wf_addMessage (hm : Memory.wf s.store) (m : Message) : Memory.wf (s.addMessage m).store := by
  rcases s.addMessage_cases m with ⟨i, _, h⟩ | ⟨_, h⟩
  · rw [h]; exact s.wf_appendAt hm i m
  · rw [h]; exact hm

/-- The state that a learn takes the message from (42_registry.md R199). -/
theorem State.learnFire_eq :
    s.learnFire = State.addMessage
      { s with
        packetStarted := false
        byteStarted := false
        bitCount := 0
        byteAccum := 0
        bytesCollected := 0
        messageReady := false
        learnPending := false } s.buf := rfl

@[simp] theorem State.learnFire_packetStarted : s.learnFire.packetStarted = false := by simp [State.learnFire_eq]

@[simp] theorem State.learnFire_byteStarted : s.learnFire.byteStarted = false := by simp [State.learnFire_eq]

@[simp] theorem State.learnFire_bitCount : s.learnFire.bitCount = 0 := by simp [State.learnFire_eq]

@[simp] theorem State.learnFire_byteAccum : s.learnFire.byteAccum = 0 := by simp [State.learnFire_eq]

@[simp] theorem State.learnFire_bytesCollected : s.learnFire.bytesCollected = 0 := by simp [State.learnFire_eq]

@[simp] theorem State.learnFire_messageReady : s.learnFire.messageReady = false := by simp [State.learnFire_eq]

@[simp] theorem State.learnFire_learnPending : s.learnFire.learnPending = false := by simp [State.learnFire_eq]

/-! #### What `learnFire` leaves alone -/

@[simp] theorem State.learnFire_cfg : s.learnFire.cfg = s.cfg := by
  simp [State.learnFire_eq]
@[simp] theorem State.learnFire_buf : s.learnFire.buf = s.buf := by
  simp [State.learnFire_eq]
@[simp] theorem State.learnFire_cnt : s.learnFire.cnt = s.cnt := by
  simp [State.learnFire_eq]
@[simp] theorem State.learnFire_regCorrupt : s.learnFire.regCorrupt = s.regCorrupt := by
  simp [State.learnFire_eq]
@[simp] theorem State.learnFire_consumerWaiting : s.learnFire.consumerWaiting = s.consumerWaiting := by
  simp [State.learnFire_eq]
@[simp] theorem State.learnFire_inputs : s.learnFire.inputs = s.inputs := by
  simp [State.learnFire_eq]
@[simp] theorem State.learnFire_learnStarts : s.learnFire.learnStarts = s.learnStarts := by
  simp [State.learnFire_eq]
@[simp] theorem State.learnFire_freeCount : s.learnFire.freeCount = s.freeCount := by
  simp [State.learnFire_eq]

theorem State.wf_learnFire (hm : Memory.wf s.store) : Memory.wf s.learnFire.store := by
  rw [State.learnFire_eq]; apply State.wf_addMessage; exact hm

/-- The learn hook fires, or does nothing (41_decoder.md R165). -/
theorem State.learnHook_cases :
    (s.learnPending = true ∧ s.messageReady = true ∧ s.learnHook = s.learnFire) ∨
    ((s.learnPending = false ∨ s.messageReady = false) ∧ s.learnHook = s) := by
  unfold State.learnHook
  cases s.learnPending <;> cases s.messageReady <;> simp

/-- The matches of a probe, as 42_registry.md R193 lists them. -/
theorem Entry.matchesProbe_iff (e : Entry) (m : Message) :
    e.matchesProbe m = true ↔
      e.paired = true ∧ e.switchId = switchIdOf m ∧ e.identity = identityOf m := by
  simp [Entry.matchesProbe, and_assoc]

theorem mem_entryIndices (i : EntryIndex) : i ∈ entryIndices := by revert i; decide

theorem entryIndices_sorted : entryIndices.Pairwise (· < ·) := by decide

/-- A lookup answers the lowest index that matches (42_registry.md R193). -/
theorem State.lookupIndex_eq_some (m : Message) (i : EntryIndex) :
    s.lookupIndex m = some i ↔
      (i.val < s.regCount.toNat ∧ s.ent[i.val].matchesProbe m = true) ∧
        ∀ j : EntryIndex, j < i → ¬(j.val < s.regCount.toNat ∧ s.ent[j.val].matchesProbe m = true) := by
  unfold State.lookupIndex
  rw [List.find?_eq_some_iff_append]
  constructor
  · rintro ⟨hp, as, bs, heq, hbefore⟩
    refine ⟨by simpa using hp, fun j hj => ?_⟩
    have hmem : j ∈ as := by
      have hj' := mem_entryIndices j
      rw [heq, List.mem_append, List.mem_cons] at hj'
      rcases hj' with h | rfl | h
      · exact h
      · exact absurd hj (lt_irrefl _)
      · have hs := entryIndices_sorted
        rw [heq] at hs
        have := (List.pairwise_cons.1 (List.pairwise_append.1 hs).2.1).1 j h
        exact absurd hj (not_lt_of_gt this)
    have := hbefore j hmem
    simp only [Bool.not_eq_true', Bool.and_eq_false_iff, decide_eq_false_iff_not] at this
    rintro ⟨h1, h2⟩
    rcases this with h | h
    · exact h h1
    · simp [h] at h2
  · rintro ⟨⟨hlt, hm⟩, hno⟩
    obtain ⟨as, bs, heq⟩ := List.append_of_mem (mem_entryIndices i)
    refine ⟨by simpa using ⟨hlt, hm⟩, as, bs, heq, fun j hj => ?_⟩
    have hs := entryIndices_sorted
    rw [heq] at hs
    have hji : j < i := (List.pairwise_append.1 hs).2.2 j hj i (by simp)
    have := hno j hji
    by_cases hl : j.val < s.regCount.toNat <;> simp_all

/-- A lookup finds nothing exactly when no present entry matches (42_registry.md R193). -/
theorem State.lookupIndex_eq_none (m : Message) :
    s.lookupIndex m = none ↔
      ∀ i : EntryIndex, i.val < s.regCount.toNat → s.ent[i.val].matchesProbe m = false := by
  unfold State.lookupIndex
  rw [List.find?_eq_none]
  constructor
  · intro h i hi; simpa [hi] using h i (mem_entryIndices i)
  · intro h i _
    by_cases hi : i.val < s.regCount.toNat
    · simpa [hi] using h i hi
    · simp [hi]

/-! ### The next port word -/

/-- Everything the choice of the next word can do: the first word whose agent can present it. -/
theorem nextPresented_eq_some {free : Bool} {ps : List PortWord} {p : PortWord} {left : List PortWord}
    (h : nextPresented free ps = some (p, left)) :
    canPresent free p = true ∧ ∃ before after, ps = before ++ p :: after ∧ left = before ++ after ∧
      ∀ q ∈ before, canPresent free q = false := by
  induction ps generalizing p left with
  | nil => simp [nextPresented] at h
  | cons q rest ih =>
    simp only [nextPresented] at h
    split at h
    · rename_i hq
      simp only [Option.some.injEq, Prod.mk.injEq] at h
      obtain ⟨rfl, rfl⟩ := h
      exact ⟨hq, [], rest, rfl, rfl, by simp⟩
    · rename_i hq
      split at h
      · exact absurd h (by simp)
      · rename_i r l hr
        simp only [Option.some.injEq, Prod.mk.injEq] at h
        obtain ⟨rfl, rfl⟩ := h
        obtain ⟨hp, before, after, rfl, rfl, hb⟩ := ih hr
        refine ⟨hp, q :: before, after, rfl, rfl, fun x hx => ?_⟩
        rcases List.mem_cons.1 hx with rfl | hx
        · simpa using hq
        · exact hb x hx

/-- Nothing is presented exactly when every word waits for the consumer. -/
theorem nextPresented_eq_none {free : Bool} {ps : List PortWord} :
    nextPresented free ps = none ↔ ∀ q ∈ ps, canPresent free q = false := by
  induction ps with
  | nil => simp [nextPresented]
  | cons q rest ih =>
    simp only [nextPresented]
    split
    · rename_i hq; simp [hq]
    · rename_i hq
      rw [List.forall_mem_cons, ← ih]
      cases hr : nextPresented free rest <;> simp_all

/-- The fetch takes a word out of the inputs and changes nothing else. -/
theorem State.fetch_eq_some {p : PortWord} {t : State} (h : s.fetch = some (p, t)) :
    ∃ left, nextPresented s.consumerFree s.inputs = some (p, left) ∧ t = { s with inputs := left } := by
  unfold State.fetch at h
  split at h
  · exact absurd h (by simp)
  · rename_i q left hq
    simp only [Option.some.injEq, Prod.mk.injEq] at h
    obtain ⟨rfl, rfl⟩ := h
    exact ⟨left, hq, rfl⟩

/-- Everything a step can be: the outstanding `WAIT`, nothing, an operation, or a strobe at 0. -/
theorem step_cases :
    (s.heldWaitReady = true ∧ step s = exec .wait s) ∨
    (s.heldWaitReady = false ∧ s.fetch = none ∧ step s = .next s) ∨
    (∃ p t i, s.heldWaitReady = false ∧ s.fetch = some (p, t) ∧ decode p = .ok i ∧ step s = exec i t) ∨
    (∃ p t e, s.heldWaitReady = false ∧ s.fetch = some (p, t) ∧ decode p = .error e ∧ step s = .next t) := by
  unfold step
  cases hw : s.heldWaitReady
  · cases hf : s.fetch with
    | none => simp
    | some x =>
      obtain ⟨p, t⟩ := x
      cases hd : decode p <;> simp [hd]
  · simp

end Sys2Proof.Machine
end

