-- ==== Sys2Proof/Laws/Decoder.lean ====
section
/-! SUPPORT. The classifier band by band, the phase as its flags, and an edge as the decoder's action followed
by the learn hook. -/

namespace Sys2Proof.Machine

/-! ### The classifier -/

theorem classify_of_glitch {cfg : Config} {d : Nat} (h : d < cfg.shortMin) (l : Level) :
    classify cfg d l = .ignore := by simp [classify, h]

theorem classify_short_low {cfg : Config} {d : Nat} (h : ShortBand cfg d) :
    classify cfg d .low = .shortPulse := by simp [classify, Nat.not_lt.2 h.1, h.2]

theorem classify_short_high {cfg : Config} {d : Nat} (h : ShortBand cfg d) :
    classify cfg d .high = .invalid .shortHigh := by simp [classify, Nat.not_lt.2 h.1, h.2]

theorem LongBand.not_below {cfg : Config} {d : Nat} (h : LongBand cfg d) :
    ¬d < cfg.shortMin ∧ ¬d < cfg.shortLim := by
  obtain ⟨⟨_, _, _, _⟩, _, _⟩ := h; omega

theorem classify_long_high {cfg : Config} {d : Nat} (h : LongBand cfg d) :
    classify cfg d .high = .longPulse := by simp [classify, h.not_below, h.2]

theorem classify_long_low {cfg : Config} {d : Nat} (h : LongBand cfg d) :
    classify cfg d .low = .invalid .longLow := by simp [classify, h.not_below, h.2]

theorem classify_outOfBand {cfg : Config} {d : Nat} (h : OutOfBand cfg d) (l : Level) :
    classify cfg d l = .invalid .band := by
  obtain ⟨⟨_, _, _, _⟩, hd⟩ := h
  have h1 : ¬d < cfg.shortMin := by omega
  have h2 : ¬d < cfg.shortLim := by omega
  have h3 : ¬(cfg.longMinEx < d ∧ d < cfg.longLim) := by omega
  simp only [classify, if_neg h1, if_neg h2, if_neg h3]

theorem classify_symbol {cfg : Config} {b : Bool} {d : Nat} {l : Level} (h : SymbolEdge cfg b d l) :
    classify cfg d l = if b then .shortPulse else .longPulse := by
  rcases h with ⟨rfl, rfl, h⟩ | ⟨rfl, rfl, h⟩
  · exact classify_short_low h
  · exact classify_long_high h

/-! ### The phase -/

theorem State.phase_eq_idle {s : State} :
    s.phase = .idle ↔ s.messageReady = false ∧ s.packetStarted = false := by
  unfold State.phase; cases s.messageReady <;> cases s.packetStarted <;> cases s.byteStarted <;> simp

theorem State.phase_eq_packetStarted {s : State} :
    s.phase = .packetStarted ↔ s.messageReady = false ∧ s.packetStarted = true ∧ s.byteStarted = false := by
  unfold State.phase; cases s.messageReady <;> cases s.packetStarted <;> cases s.byteStarted <;> simp

theorem State.phase_eq_byteInProgress {s : State} :
    s.phase = .byteInProgress ↔ s.messageReady = false ∧ s.packetStarted = true ∧ s.byteStarted = true := by
  unfold State.phase; cases s.messageReady <;> cases s.packetStarted <;> cases s.byteStarted <;> simp

theorem State.phase_eq_messageReady {s : State} : s.phase = .messageReady ↔ s.messageReady = true := by
  unfold State.phase; cases s.messageReady <;> cases s.packetStarted <;> cases s.byteStarted <;> simp

/-! ### One edge -/

theorem exec_edge_of_ready {s : State} (h : s.messageReady = true) (d : Nat) (l : Level) :
    exec (.edge d l) s = .next s := if_pos h

theorem exec_edge_of_not_ready {s : State} (h : s.messageReady = false) (d : Nat) (l : Level) :
    exec (.edge d l) s = .next (s.onPulse (classify s.cfg d l)).learnHook := if_neg (by simp [h])

/-- The learn hook does nothing while no message is ready (41_decoder.md R165). -/
theorem State.learnHook_of_not_ready {s : State} (h : s.messageReady = false) : s.learnHook = s := by
  simp [State.learnHook, h]

/-- The learn hook does nothing while no learn is pending (41_decoder.md R165). -/
theorem State.learnHook_of_not_pending {s : State} (h : s.learnPending = false) : s.learnHook = s := by
  simp [State.learnHook, h]

/-- An edge whose action leaves no message ready is that action. -/
theorem exec_edge_of_onPulse {s t : State} (h : s.messageReady = false) {d : Nat} {l : Level}
    (ht : s.onPulse (classify s.cfg d l) = t) (hr : t.messageReady = false) :
    exec (.edge d l) s = .next t := by
  rw [exec_edge_of_not_ready h, ht, State.learnHook_of_not_ready hr]

/-- A symbol in `BYTE_IN_PROGRESS` is a data bit (41_decoder.md R156, R159). -/
theorem State.onPulse_symbol {s : State} (h : s.phase = .byteInProgress) (b : Bool) :
    s.onPulse (if b then .shortPulse else .longPulse) = s.shiftIn b := by
  obtain ⟨_, hp, hb⟩ := State.phase_eq_byteInProgress.1 h
  cases b <;> simp [State.onPulse, hp, hb]

/-- The data bit that finishes a byte (41_decoder.md R160). -/
theorem exec_edge_finishing {s : State} {b : Bool} {d : Nat} {l : Level} (hp : s.phase = .byteInProgress)
    (hn : s.bitCount = 7) (hs : SymbolEdge s.cfg b d l) :
    exec (.edge d l) s =
      .next (State.completeByte { s.shiftBit b with byteStarted := false }).learnHook := by
  rw [exec_edge_of_not_ready (State.phase_eq_byteInProgress.1 hp).1, classify_symbol hs,
    State.onPulse_symbol hp, State.shiftIn_of_eq s b (by rw [hn]; rfl)]

/-- The tenth byte's place in the buffer is there. -/
theorem Message.setIfInBounds_nine (b : Message) (v : Byte) : b.setIfInBounds 9 v = b.set 9 v := by
  ext i hi; simp [Vector.getElem_set, Vector.getElem_setIfInBounds]

/-- The state in which the tenth byte leaves the decoder, before the learn hook (41_decoder.md R160, R161,
R164). -/
theorem State.completeByte_shiftBit_tenth {s : State} (hn : s.bitCount = 7) (h9 : s.bytesCollected = 9)
    (b : Bool) :
    State.completeByte { s.shiftBit b with byteStarted := false } = { s with
      messageReady := true
      packetStarted := false
      byteStarted := false
      byteAccum := shiftByte s.byteAccum b
      bitCount := 8
      buf := s.buf.set 9 (shiftByte s.byteAccum b)
      bytesCollected := 10 } := by
  rw [State.completeByte_tenth _ (by simpa using h9)]
  simp [State.messageComplete, State.storeFinishedByte, State.shiftBit, hn, h9, Message.setIfInBounds_nine]

/-! ### An edge and what still stands at the ports -/

theorem State.completeByte_withInputs (s : State) (L : List PortWord) :
    State.completeByte { s with inputs := L } = { s.completeByte with inputs := L } := by
  rcases s.completeByte_cases with ⟨h0, h1, h2, h3, h4, h⟩ | ⟨h0, h1, h2, h3, h⟩ | ⟨h0, h1, h⟩ | ⟨h0, h1, h⟩
  · rw [h]; unfold State.completeByte State.firstByteMismatch
    rw [if_pos ⟨h0, h1, h2⟩, if_pos ⟨h3, h4⟩]; rfl
  · rw [h]; unfold State.completeByte State.firstByteMismatch
    rw [if_pos ⟨h0, h1, h2⟩, if_neg h3]; rfl
  · rw [h]; unfold State.completeByte
    exact (if_neg h0).trans ((if_pos h1).trans rfl)
  · rw [h]; unfold State.completeByte
    exact (if_neg h0).trans ((if_neg h1).trans rfl)

theorem State.shiftIn_withInputs (s : State) (L : List PortWord) (b : Bool) :
    State.shiftIn { s with inputs := L } b = { s.shiftIn b with inputs := L } := by
  by_cases h : s.bitCount + 1 = 8
  · rw [State.shiftIn_of_eq s b h, State.shiftIn_of_eq { s with inputs := L } b h]
    exact State.completeByte_withInputs { s.shiftBit b with byteStarted := false } L
  · rw [State.shiftIn_of_ne s b h, State.shiftIn_of_ne { s with inputs := L } b h]; rfl

theorem State.onPulse_withInputs (s : State) (L : List PortWord) (c : PulseClass) :
    State.onPulse { s with inputs := L } c = { s.onPulse c with inputs := L } := by
  cases c with
  | ignore => rfl
  | invalid v => rfl
  | shortPulse =>
    simp only [State.onPulse]
    split
    · rfl
    · split
      · rfl
      · exact s.shiftIn_withInputs L true
  | longPulse =>
    simp only [State.onPulse]
    split
    · rfl
    · split
      · rfl
      · exact s.shiftIn_withInputs L false

theorem State.addMessage_withInputs (s : State) (L : List PortWord) (m : Message) :
    State.addMessage { s with inputs := L } m = { s.addMessage m with inputs := L } := by
  unfold State.addMessage; dsimp only; split
  · simp only [State.appendAt, slotWrites, State.memWrites, State.memWrite, State.respond]
  · rfl

theorem State.learnFire_withInputs (s : State) (L : List PortWord) :
    State.learnFire { s with inputs := L } = { s.learnFire with inputs := L } := by
  unfold State.learnFire State.decInit
  exact State.addMessage_withInputs ({ s with
    packetStarted := false
    byteStarted := false
    bitCount := 0
    byteAccum := 0
    bytesCollected := 0
    messageReady := false
    learnPending := false } : State) L s.buf

theorem State.learnHook_withInputs (s : State) (L : List PortWord) :
    State.learnHook { s with inputs := L } = { s.learnHook with inputs := L } := by
  rcases s.learnHook_cases with ⟨hl, hr, h⟩ | ⟨hn, h⟩
  · rw [h, ← State.learnFire_withInputs]; exact if_pos (by simp [hl, hr])
  · rw [h]; exact if_neg (by rcases hn with hn | hn <;> simp [hn])

/-- An `EDGE` reads nothing of what still stands at the ports. -/
theorem exec_edge_withInputs {s t : State} {d : Nat} {l : Level} (L : List PortWord)
    (h : exec (.edge d l) s = .next t) :
    exec (.edge d l) { s with inputs := L } = .next { t with inputs := L } := by
  simp only [exec, execEdge] at h ⊢
  by_cases hr : s.messageReady = true
  · rw [if_pos hr] at h ⊢; cases h; rfl
  · rw [if_neg hr] at h ⊢; cases h
    rw [State.onPulse_withInputs, State.learnHook_withInputs]

end Sys2Proof.Machine
end

