-- ==== Sys2Proof/Laws/Encoding.lean ====
section
/-! SUPPORT. A command word taken apart into its operation code and its operand. -/

namespace Sys2Proof

/-- A command word decodes by its code and its operand (30_encoding.md R92). -/
theorem decode_command_append (op : BitVec 4) (arg : BitVec 80) :
    decode (.command (op ++ arg)) = decodeOp op arg := by
  have hop : (op ++ arg).extractLsb' 80 4 = op := by
    rw [BitVec.extractLsb'_append_eq_of_le (by omega)]; simp
  have harg : (op ++ arg).extractLsb' 0 80 = arg := by
    rw [BitVec.extractLsb'_append_eq_of_add_le (by omega)]; simp
  simp only [decode, decodeCommand, hop, harg]

end Sys2Proof
end

