-- ==== Sys2Proof/Laws/PerInstr.lean ====
section
/-! SUPPORT. Facts of every operation as syntax, one lemma a constructor: the encoder puts an operation on the
port that 30_encoding.md R95 gives it. -/

namespace Sys2Proof.Laws.EncodesOnItsPort

/-- The encoded word of an operation stands at that operation's port. -/
def Statement (i : Instr) : Prop := (encode i).port = i.port

theorem edge (d : Nat) (l : Level) : Statement (.edge d l) := rfl

theorem setup : Statement .setup := rfl

theorem poll : Statement .poll := rfl

theorem take : Statement .take := rfl

theorem wait : Statement .wait := rfl

theorem rdcnt (k : BitVec 2) : Statement (.rdcnt k) := rfl

theorem rdstat : Statement .rdstat := rfl

theorem rload : Statement .rload := rfl

theorem lookup (m : Message) : Statement (.lookup m) := rfl

theorem add (m : Message) : Statement (.add m) := rfl

theorem learn (t : BitVec 16) : Statement (.learn t) := rfl

theorem erase : Statement .erase := rfl

theorem tmo : Statement .tmo := rfl

theorem rst : Statement .rst := rfl

theorem reserved0 : Statement .reserved0 := rfl

theorem reserved7 : Statement .reserved7 := rfl

theorem reservedD : Statement .reservedD := rfl

theorem reservedE : Statement .reservedE := rfl

theorem reservedF : Statement .reservedF := rfl

end Sys2Proof.Laws.EncodesOnItsPort
end

