-- ==== Sys2Proof/Laws/Registry.lean ====
section
/-! SUPPORT. What the shared bodies of the registry's operations do: an append, `ADD` in its two cases, a
load, and 49 zero bytes written. -/

namespace Sys2Proof.Machine

/-! ### Offsets and fields -/

theorem slot_ne_zero (i : EntryIndex) (k : Fin 8) : slot i k ≠ 0 := by
  revert i k; decide

theorem slot_inj {i i' : EntryIndex} {k k' : Fin 8} : slot i k = slot i' k' ↔ i = i' ∧ k = k' := by
  simp only [slot, Fin.ext_iff]; omega

theorem entryOfMessage_eq (m : Message) : entryOfMessage m = recordedEntry m := by
  unfold entryOfMessage recordedEntry switchIdOf identityOf
  congr 1

/-! ### An append -/

/-- Any state with the store that an append leaves has the message appended (42_registry.md R195). -/
theorem State.appended_of_appendAt {s t : State} (hm : Memory.wf s.store) {i : EntryIndex} {m : Message}
    (ht : t.store = (s.appendAt i m).store) (hc : t.cfg = s.cfg) : Appended s t i m := by
  have key : ∀ a, t.storeByte a =
      (s.memWrites (slotWrites i m ++ [(0, BitVec.ofNat 8 (i.val + 1))])).storeByte a := fun a =>
    State.storeByte_congr (by rw [ht]; rfl) (by simp [hc]) a
  refine ⟨fun j => ?_, ?_, ?_, ?_, fun addr h0 hk => ?_⟩
  · rw [key, State.storeByte_memWrites _ hm]
    fin_cases j <;> simp [slotWrites, slot_inj, (slot_ne_zero _ _).symm]
  · rw [key, State.storeByte_memWrites _ hm]
    simp [slotWrites, slot_inj, (slot_ne_zero _ _).symm, switchIdOf]
  · rw [key, State.storeByte_memWrites _ hm]
    simp [slotWrites, (slot_ne_zero _ _).symm]
  · rw [key, State.storeByte_memWrites _ hm]
    simp
  · rw [ht, State.appendAt_store]
    apply State.read_memWrites_of_ne
    intro w hw
    simp only [slotWrites, List.mem_append, List.mem_cons, List.not_mem_nil, or_false] at hw
    have := fun k => (hk k).symm
    rcases hw with (rfl | rfl | rfl | rfl | rfl | rfl | rfl | rfl) | rfl
    · exact this 0
    · exact this 1
    · exact this 2
    · exact this 3
    · exact this 4
    · exact this 5
    · exact this 6
    · exact this 7
    · simpa [storeAddress] using h0.symm

/-- An append at the registry's count, whole: what it writes, and nothing else (42_registry.md R195). -/
theorem State.appendAt_eq (s : State) {i : EntryIndex} (hi : s.regCount.toNat = i.val) (m : Message) :
    s.appendAt i m = { s with
      ent := s.ent.set i (recordedEntry m)
      regCount := s.regCount + 1
      store := (s.appendAt i m).store
      storeTrace := s.storeTrace ++ appendRequests i m } := by
  have hcount : BitVec.ofNat 3 (i.val + 1) = s.regCount + 1 := by
    rw [← hi]; apply BitVec.eq_of_toNat_eq; simp
  have htrace : (s.appendAt i m).storeTrace = s.storeTrace ++ appendRequests i m :=
    s.appendAt_storeTrace i m
  rw [← hcount, ← htrace, ← entryOfMessage_eq]
  unfold State.appendAt
  generalize slotWrites i m = ws
  obtain ⟨st, tr, h⟩ : ∃ st tr, State.memWrites { s with ent := s.ent.set i (entryOfMessage m) } ws =
      { s with ent := s.ent.set i (entryOfMessage m), store := st, storeTrace := tr } :=
    ⟨_, _, State.memWrites_eq _ _⟩
  rw [h]
  rfl

/-- `ADD` with room (42_registry.md R195). -/
theorem State.addMessage_of_room (s : State) {i : EntryIndex} (hi : s.regCount.toNat = i.val) (m : Message) :
    s.addMessage m = (s.appendAt i m).respond true (indexData i) := by
  rcases s.addMessage_cases m with ⟨j, hj, h⟩ | ⟨h6, _⟩
  · have : j = i := by ext; omega
    rw [h, this]
  · omega

/-- `ADD` without room (42_registry.md R196). -/
theorem State.addMessage_of_full (s : State) (hi : 6 ≤ s.regCount.toNat) (m : Message) :
    s.addMessage m = s.respond false 0 := by
  rcases s.addMessage_cases m with ⟨j, hj, _⟩ | ⟨_, h⟩
  · omega
  · exact h

/-! ### A load -/

theorem State.storedCount_le (s : State) : s.storedCount.toNat ≤ 6 := by
  unfold State.storedCount State.storedCountCorrupt
  split
  · decide
  · rename_i h
    have h : (s.storeByte 0).toNat ≤ 6 := by simpa using h
    simp only [BitVec.toNat_setWidth]
    omega

theorem State.toNat_storedCount (s : State) (h : (s.storeByte 0).toNat ≤ 6) :
    s.storedCount.toNat = (s.storeByte 0).toNat := by
  unfold State.storedCount State.storedCountCorrupt
  rw [if_neg (by simpa using h)]
  simp only [BitVec.toNat_setWidth]
  omega

/-- A load gives the working copy that the store's content calls for (42_registry.md R191, R192). -/
theorem State.loaded_reload (s : State) : Loaded s s.reload := by
  refine ⟨fun h => ⟨?_, ?_⟩, fun h => ⟨?_, ?_⟩, fun i j => ?_, fun i => ?_, fun i => ?_⟩
  · exact s.toNat_storedCount h
  · simpa [State.reload, State.storedCountCorrupt] using h
  · simp [State.reload, State.storedCount, State.storedCountCorrupt, h]
  · simpa [State.reload, State.storedCountCorrupt] using h
  · simp [State.reload, State.storedEntry]
  · simp [State.reload, State.storedEntry]
  · simp [State.reload, State.storedEntry]

@[simp] theorem State.storeByte_reload (s : State) (a : Offset) : s.reload.storeByte a = s.storeByte a :=
  State.storeByte_congr (by simp) (by simp) a

/-- A load of a region of zeros empties the working copy (42_registry.md R202). -/
theorem State.reload_of_zero (s : State) (h : ∀ a, s.storeByte a = 0) :
    s.reload = { s with
      regCount := 0
      regCorrupt := false
      ent := Vector.replicate 6 Entry.empty
      storeTrace := s.storeTrace ++ allOffsets.map readRequest } := by
  have hcount : s.storedCount = 0 := by simp [State.storedCount, State.storedCountCorrupt, h]
  have hcorrupt : s.storedCountCorrupt = false := by simp [State.storedCountCorrupt, h]
  have hent : Vector.ofFn s.storedEntry = Vector.replicate 6 Entry.empty := by
    have : s.storedEntry = fun _ => Entry.empty := by
      funext i; simp only [State.storedEntry, h]; decide
    rw [this]; decide
  rw [State.reload, hcount, hcorrupt, hent]
  rfl

/-- The store after zero bytes at every offset (42_registry.md R202). -/
theorem State.storeByte_zeroed (s : State) (hm : Memory.wf s.store) (a : Offset) :
    (s.memWrites (allOffsets.map fun b => (b, 0x00))).storeByte a = 0 := by
  rw [State.storeByte_memWrites _ hm]
  cases hf : ((allOffsets.map fun b => (b, (0x00 : Byte))).reverse.find? fun w => decide (w.1 = a)) with
  | none =>
    rw [List.find?_eq_none] at hf
    exact absurd (hf (a, 0) (by simp [allOffsets])) (by simp)
  | some w =>
    have := List.mem_of_find?_eq_some hf
    simp only [List.mem_reverse, List.mem_map] at this
    obtain ⟨b, -, rfl⟩ := this
    rfl

end Sys2Proof.Machine
end

