-- ==== Sys2Proof/Tests/Slice0.lean ====
section
/-! SUPPORT. Tests: the ill-formed term that `Instr.wf` refuses, a word written out from the spec for every
operation, single steps with the results that 95_test_vectors.md gives, and for every statement with hypotheses
a concrete state that meets them. -/

namespace Sys2Proof.Tests

open Sys2Proof.Machine

/-! ### Helpers -/

/-- Message `M1` of 95_test_vectors.md. -/
def m1 : Message := #v[0xF6, 0xF6, 0xEE, 0xEE, 0x01, 0x02, 0x03, 0x04, 0x05, 0x06]

/-- The state after reset with the decoder registers `(ps,bs,bc,acc,nb,rdy)` of 95_test_vectors.md section 2.2
and `M1` in the buffer. -/
def decoderAt (ps bs : Bool) (bc : BitVec 4) (acc : Byte) (nb : BitVec 4) (rdy : Bool) : State :=
  { State.reset with
    packetStarted := ps, byteStarted := bs, bitCount := bc, byteAccum := acc, bytesCollected := nb
    messageReady := rdy, buf := m1 }

/-- The decoder registers in the same order. -/
structure Registers where
  ps : Bool
  bs : Bool
  bc : BitVec 4
  acc : Byte
  nb : BitVec 4
  rdy : Bool
deriving DecidableEq

/-- The decoder registers of a state. -/
def decoderOf (s : State) : Registers :=
  ⟨s.packetStarted, s.byteStarted, s.bitCount, s.byteAccum, s.bytesCollected, s.messageReady⟩

/-- A view of the next state, if there is one. -/
def after {α : Type} (f : State → α) : Host.Outcome State Fault Refusal → Option α
  | .next t => some (f t)
  | .fault _ => none
  | .refused _ => none

/-- A message ready: (0,0,8,06,10,1), `buf` = `M1`. -/
def ready : State := decoderAt false false 8 0x06 10 true

/-- Between two bytes: (1,0,8,33,4,0). -/
def betweenBytes : State := decoderAt true false 8 0x33 4 false

/-- Inside a byte: (1,1,3,05,2,0). -/
def insideByte : State := decoderAt true true 3 0x05 2 false

/-- One bit short of a message: (1,1,7,03,9,0). -/
def lastBit : State := decoderAt true true 7 0x03 9 false

/-- The first bytes of a store, at address 0 on. -/
def storeOf (bytes : List Byte) : Memory := (List.range bytes.length).zip bytes

/-- A store of 49 zero bytes. -/
def zeroStore : Memory := storeOf (List.replicate 49 0)

/-- The store image `STA` of 95_test_vectors.md section 2.4. -/
def sta : Memory := storeOf
  ([0x03, 0xA1, 0xA2, 0xA3, 0xA4, 0xA5, 0xA6, 0x11, 0x01, 0xB1, 0xB2, 0xB3, 0xB4, 0xB5, 0xB6, 0x22, 0x00,
    0xA1, 0xA2, 0xA3, 0xA4, 0xA5, 0xA6, 0x11, 0x80, 0xC1, 0xC2, 0xC3, 0xC4, 0xC5, 0xC6, 0x33, 0x01] ++
    List.replicate 16 0)

/-- The working copy that a load of `STA` gives (V70). -/
def staEntries : Vector Entry 6 :=
  #v[⟨#v[0xA1, 0xA2, 0xA3, 0xA4, 0xA5, 0xA6], 0x11, true⟩, ⟨#v[0xB1, 0xB2, 0xB3, 0xB4, 0xB5, 0xB6], 0x22, false⟩,
     ⟨#v[0xA1, 0xA2, 0xA3, 0xA4, 0xA5, 0xA6], 0x11, true⟩, ⟨#v[0xC1, 0xC2, 0xC3, 0xC4, 0xC5, 0xC6], 0x33, true⟩,
     Entry.empty, Entry.empty]

/-- The state of V70: `STA` loaded. -/
def loadedSta : State := { State.reset with store := sta, regCount := 3, ent := staEntries }

/-! ### Well-formedness -/

theorem test_wf_refuses_wide_duration : (Instr.edge 65536 .low).wf = false := by decide

theorem test_wf_accepts_widest_duration : (Instr.edge 65535 .high).wf = true := by decide

/-! ### Decoding, one word written out for every operation -/

/-- V1, V7, V16, V23: bit 16 is the level, bits 15:0 the duration. -/
theorem test_decode_edge :
    decode (.edge 0b0_0000_0000_0000_0000) = .ok (.edge 0 .low) ∧
    decode (.edge 0b0_0000_0000_0000_1010) = .ok (.edge 10 .low) ∧
    decode (.edge 0b1_0000_0000_0001_1000) = .ok (.edge 24 .high) ∧
    decode (.edge 0b1_1111_1111_1111_1111) = .ok (.edge 65535 .high) := by decide

theorem test_decode_setup : decode (.command 0x100000000000000000000) = .ok .setup := by decide

/-- V54, V62: operand bits that `POLL` does not name are ignored. -/
theorem test_decode_poll :
    decode (.command 0x200000000000000000000) = .ok .poll ∧
    decode (.command 0x2FFFFFFFFFFFFFFFFFFFF) = .ok .poll := by decide

theorem test_decode_take : decode (.command 0x300000000000000000000) = .ok .take := by decide

theorem test_decode_wait : decode (.command 0x400000000000000000000) = .ok .wait := by decide

theorem test_decode_rdcnt :
    decode (.command 0x500000000000000000002) = .ok (.rdcnt 2) ∧
    decode (.command 0x5FFFFFFFFFFFFFFFFFFFC) = .ok (.rdcnt 0) := by decide

theorem test_decode_rdstat : decode (.command 0x600000000000000000000) = .ok .rdstat := by decide

theorem test_decode_rload : decode (.command 0x800000000000000000000) = .ok .rload := by decide

/-- The `LOOKUP` word of 30_encoding.md R107. -/
theorem test_decode_lookup : decode (.command 0x9F6F6EEEE010203040506) = .ok (.lookup m1) := by decide

/-- V79. -/
theorem test_decode_add :
    decode (.command 0xAF6F644EED1D2D3D4D5D6) =
      .ok (.add #v[0xF6, 0xF6, 0x44, 0xEE, 0xD1, 0xD2, 0xD3, 0xD4, 0xD5, 0xD6]) := by decide

/-- V83: `LEARN 5000`. -/
theorem test_decode_learn : decode (.command 0xB00000000000000001388) = .ok (.learn 5000) := by decide

theorem test_decode_erase : decode (.command 0xC00000000000000000000) = .ok .erase := by decide

/-- 30_encoding.md R98. -/
theorem test_decode_reserved :
    decode (.command 0x000000000000000000000) = .ok .reserved0 ∧
    decode (.command 0x700000000000000000000) = .ok .reserved7 ∧
    decode (.command 0xD00000000000000000000) = .ok .reservedD ∧
    decode (.command 0xE00000000000000000000) = .ok .reservedE ∧
    decode (.command 0xFFFFFFFFFFFFFFFFFFFFF) = .ok .reservedF := by decide

/-- 30_encoding.md R97; a strobe at 0 is rejected by name. -/
theorem test_decode_strobes :
    decode (.timer 1) = .ok .tmo ∧ decode (.reset 1) = .ok .rst ∧
    decode (.timer 0) = .error (.strobeNotAsserted .timer) ∧
    decode (.reset 0) = .error (.strobeNotAsserted .reset) := by decide

/-- The same words by the opcode table's numbering, and numbers that are no port word. -/
theorem test_decode_table_words :
    decodeTableWord 24 0x10018 = some (.edge 24 .high) ∧
    decodeTableWord 88 0x9F6F6EEEE010203040506 = some (.lookup m1) ∧
    decodeTableWord 8 1 = some .tmo ∧ decodeTableWord 8 0 = none ∧ decodeTableWord 16 0 = none := by decide

/-- 30_encoding.md R91, R105: saturation and truncation of durations. -/
theorem test_edge_timer_words :
    encode (.edge 70000 .high) = .edge 0x1FFFF ∧ ticksOfMicroseconds 549 = 10 ∧
    ticksOfMicroseconds 550 = 11 := by decide

/-! ### Constants of the spec -/

/-- 30_encoding.md R104: `SENTINEL_ALT` is the sentinel shifted by one, and `cfg_ref` is well formed. -/
theorem test_reference_configuration :
    Config.shiftedSentinel 0xF6 = Config.ref.sentinelAlt ∧ Config.ref.wf := by decide

/-- 30_encoding.md R101, R108 and V90, V93: 92 symbols, 148 edges of `M1`, 164 of ten zero bytes. -/
theorem test_frame_lengths :
    (frameSymbols m1).length = 92 ∧ (frameEdges .canonical .low m1).length = 148 ∧
    (frameEdges .canonical .low (Vector.replicate 10 0)).length = 164 := by decide +kernel

/-- The first eight edge words of program P1. -/
theorem test_frame_words :
    (edgeWords (frameEdges .canonical .low m1)).take 8 =
      [0x100C8, 0x00007, 0x10004, 0x00007, 0x10004, 0x00007, 0x10004, 0x00007] := by decide

/-- Both edges of every band, at both levels (V1 to V24). -/
theorem test_classify_boundaries :
    [0, 5, 6, 10, 11, 20, 21, 27, 28, 65535].map (fun d => classify Config.ref d .low) =
      [.ignore, .ignore, .shortPulse, .shortPulse, .invalid .band, .invalid .band, .invalid .longLow,
       .invalid .longLow, .invalid .band, .invalid .band] ∧
    [0, 5, 6, 10, 11, 20, 21, 27, 28, 65535].map (fun d => classify Config.ref d .high) =
      [.ignore, .ignore, .invalid .shortHigh, .invalid .shortHigh, .invalid .band, .invalid .band,
       .longPulse, .longPulse, .invalid .band, .invalid .band] := by decide

/-! ### One step of each operation -/

/-- V36, V39. -/
theorem test_edge_shifts :
    after decoderOf (exec (.edge 7 .low) (decoderAt true true 5 0x1E 0 false)) =
      some ⟨true, true, 6, 0x3D, 0, false⟩ ∧
    after decoderOf (exec (.edge 24 .high) (decoderAt true true 4 0x0F 0 false)) =
      some ⟨true, true, 5, 0x1E, 0, false⟩ := by decide

/-- V41: the pattern of a lost pulse is repaired. -/
theorem test_edge_repairs :
    after (fun t => (decoderOf t, t.buf[0], t.cnt.toList))
        (exec (.edge 7 .low) (decoderAt true true 7 0x76 0 false)) =
      some (⟨true, true, 0, 0x00, 1, false⟩, 0xF6, [0, 0, 0, 0]) := by decide

/-- `SETUP` over the first store of program P4: a count byte of 0xFF is clamped and flagged. -/
theorem test_setup_clamps :
    after (fun t => (t.regCount, t.regCorrupt, t.responses)) (exec .setup State.reset) =
      some (6, true, [⟨true, 0⟩]) := by decide

/-- V54, V57. -/
theorem test_poll :
    after State.responses (exec .poll ready) = some [⟨true, 0⟩] ∧
    after State.responses (exec .poll State.reset) = some [⟨false, 0⟩] := by decide

/-- V55: the response word and the state after. -/
theorem test_take :
    after (fun t => (t.responses.map Response.word, decoderOf t)) (exec .take ready) =
      some ([0x1F6F6EEEE010203040506], ⟨false, false, 0, 0, 0, false⟩) := by decide

/-- V58: a `TAKE` in mid packet disturbs nothing. -/
theorem test_take_fails :
    after (fun t => (t.responses, decoderOf t)) (exec .take insideByte) =
      some ([⟨false, 0⟩], decoderOf insideByte) := by decide

/-- V59, V60: `WAIT` answers at once, or is held and answered by the step after the message completes. -/
theorem test_wait :
    after (fun t => (t.responses, t.messageReady)) (exec .wait ready) = some ([⟨true, 0⟩], true) ∧
    after (fun t => (t.responses, t.consumerWaiting)) (exec .wait lastBit) = some ([], true) := by decide

theorem test_wait_held :
    after (fun t => (t.responses, t.consumerWaiting)) (step { ready with consumerWaiting := true }) =
      some ([⟨true, 0⟩], false) := by decide

/-- The counter read is the one selected, and it is not cleared. -/
theorem test_rdcnt :
    after (fun t => (t.responses, t.cnt.toList)) (exec (.rdcnt 2) { State.reset with cnt := #v[4, 5, 6, 7] }) =
      some ([⟨true, 6⟩], [4, 5, 6, 7]) := by decide

/-- P4 step 2: `RDSTAT -> 0x16`. -/
theorem test_rdstat :
    after State.responses (exec .rdstat { State.reset with regCount := 6, regCorrupt := true }) =
      some [⟨true, 0x16⟩] := by decide

/-- V70. -/
theorem test_rload :
    after (fun t => (t.regCount, t.regCorrupt, t.ent, t.storeTrace.length))
        (exec .rload { State.reset with store := sta }) =
      some (3, false, staEntries, 49) := by decide

/-- V73, V75. -/
theorem test_lookup :
    after State.responses
        (exec (.lookup #v[0x00, 0x00, 0x11, 0x00, 0xA1, 0xA2, 0xA3, 0xA4, 0xA5, 0xA6]) loadedSta) =
      some [⟨true, 0⟩] ∧
    after State.responses
        (exec (.lookup #v[0x00, 0x00, 0x33, 0x00, 0xC1, 0xC2, 0xC3, 0xC4, 0xC5, 0xC6]) loadedSta) =
      some [⟨false, 0⟩] := by decide

/-- P4 step 5: the store port's words and the answer. -/
theorem test_add :
    after (fun t => (t.storeTrace.map StoreRequest.word, t.responses))
        (exec (.add #v[0xF6, 0xF6, 0xEE, 0xEE, 0x10, 0x02, 0x03, 0x04, 0x05, 0x06])
          { State.reset with store := zeroStore }) =
      some ([0x4110, 0x4202, 0x4303, 0x4404, 0x4505, 0x4606, 0x47EE, 0x4801, 0x4001], [⟨true, 0⟩]) := by decide

/-- V81. -/
theorem test_add_full :
    after (fun t => (t.regCount, t.responses, t.storeTrace)) (exec (.add m1) { State.reset with regCount := 6 }) =
      some (6, [⟨false, 0⟩], []) := by decide

/-- V83: the waiting message is learned at once. -/
theorem test_learn_ready :
    after (fun t => (decoderOf t, t.regCount, t.responses, t.learnStarts)) (exec (.learn 5000) ready) =
      some (⟨false, false, 0, 0, 0, false⟩, 1, [⟨true, 0⟩], []) := by decide

/-- V84. -/
theorem test_learn_pending :
    after (fun t => (t.learnPending, t.responses, t.learnStarts)) (exec (.learn 5000) State.reset) =
      some (true, [], [0x1388]) := by decide

/-- V88. -/
theorem test_erase :
    after (fun t => (t.regCount, t.store.map Prod.snd, t.storeTrace.length)) (exec .erase loadedSta) =
      some (0, List.replicate 49 0, 98) := by decide

/-- V85, V86. -/
theorem test_tmo :
    after (fun t => (t.learnPending, t.responses)) (exec .tmo { State.reset with learnPending := true }) =
      some (false, [⟨false, 0⟩]) ∧
    after (fun t => (t.learnPending, t.responses)) (exec .tmo State.reset) = some (false, []) := by decide

/-- P6 step 1. -/
theorem test_rst :
    after (fun t => (decoderOf t, t.regCount, t.responses)) (exec .rst loadedSta) =
      some (⟨false, false, 0, 0, 0, false⟩, 0, []) ∧
    after (fun t => (t.ent, t.store)) (exec .rst loadedSta) =
      some (Vector.replicate 6 Entry.empty, sta) := by decide

/-- 43_system.md R234. -/
theorem test_reserved :
    after State.responses (exec .reserved0 ready) = some [⟨false, 0⟩] ∧
    after State.responses (exec .reserved7 ready) = some [⟨false, 0⟩] ∧
    after State.responses (exec .reservedD ready) = some [⟨false, 0⟩] ∧
    after State.responses (exec .reservedE ready) = some [⟨false, 0⟩] ∧
    after State.responses (exec .reservedF ready) = some [⟨false, 0⟩] := by decide

/-- A word placed first after reset is the one that runs. -/
theorem test_with_fetch_word :
    after State.responses (step (State.reset.withFetchWord 88 0x600000000000000000000)) =
      some [⟨true, 0⟩] := by decide

/-! ### Witnesses: for every statement with hypotheses, a state and operands that meet them -/

theorem witness_DecodeOfEncode : (Instr.edge 65535 .high).wf = true ∧ (Instr.lookup m1).wf = true := by decide

theorem witness_EveryEdgeWordIsAnEdge : 65535 ≤ 65535 ∧ 65535 ≤ 70000 := by decide

theorem witness_StrobesPresentAtOneOnly :
    State.heldWaitReady { State.reset with inputs := [.timer 0, .reset 0] } = false ∧
    ({ State.reset with inputs := [.timer 0, .reset 0] } : State).inputs = .timer 0 :: [.reset 0] ∧
    State.heldWaitReady { State.reset with inputs := [.reset 0] } = false ∧
    ({ State.reset with inputs := [.reset 0] } : State).inputs = .reset 0 :: [] := by decide

theorem witness_GlitchEdgeChangesNothing :
    insideByte.messageReady = false ∧ 0 < insideByte.cfg.shortMin ∧ 5 < insideByte.cfg.shortMin := by decide

/-- Both ends of each band. -/
theorem witness_TimingViolationsAbort :
    insideByte.messageReady = false ∧
    ShortBand insideByte.cfg 6 ∧ ShortBand insideByte.cfg 10 ∧
    LongBand insideByte.cfg 21 ∧ LongBand insideByte.cfg 27 ∧
    OutOfBand insideByte.cfg 11 ∧ OutOfBand insideByte.cfg 20 ∧
    OutOfBand insideByte.cfg 28 ∧ OutOfBand insideByte.cfg 65535 := by decide

theorem witness_LongPulseNeedsByteStart :
    (State.reset.messageReady = false ∧ LongBand State.reset.cfg 21 ∧ State.reset.packetStarted = false) ∧
    betweenBytes.messageReady = false ∧ LongBand betweenBytes.cfg 27 ∧ betweenBytes.byteStarted = false := by
  decide

theorem witness_ReadyDropsEveryEdge : ready.messageReady = true := by decide

theorem witness_ShortPulseStartsPacket :
    State.reset.phase = .idle ∧ ShortBand State.reset.cfg 6 ∧ ShortBand State.reset.cfg 10 := by decide

theorem witness_ShortPulseStartsByte :
    betweenBytes.phase = .packetStarted ∧ ShortBand betweenBytes.cfg 6 ∧ ShortBand betweenBytes.cfg 10 := by
  decide

/-- Bit counts 0 and 6, a 1 and a 0. -/
theorem witness_DataBitShiftsIn :
    ((decoderAt true true 0 0 0 false).phase = .byteInProgress ∧
      (decoderAt true true 0 0 0 false).bitCount.toNat < 7 ∧
      SymbolEdge (decoderAt true true 0 0 0 false).cfg true 6 .low) ∧
    (decoderAt true true 6 0x3F 1 false).phase = .byteInProgress ∧
      (decoderAt true true 6 0x3F 1 false).bitCount.toNat < 7 ∧
      SymbolEdge (decoderAt true true 6 0x3F 1 false).cfg false 27 .high := by decide

/-- V40: byte 0 is the sentinel. -/
theorem witness_FinishedByteIsStored_first :
    (decoderAt true true 7 0x7B 0 false).phase = .byteInProgress ∧
    (decoderAt true true 7 0x7B 0 false).bitCount = 7 ∧
    SymbolEdge (decoderAt true true 7 0x7B 0 false).cfg false 24 .high ∧
    (0xF6 : Byte) = ((decoderAt true true 7 0x7B 0 false).byteAccum.extractLsb' 0 7).concat false ∧
    (decoderAt true true 7 0x7B 0 false).bytesCollected.toNat ≤ 8 ∧
    ((decoderAt true true 7 0x7B 0 false).bytesCollected = 0 →
      (decoderAt true true 7 0x7B 0 false).cfg.sentinelMode = .off ∨
        (0xF6 : Byte) = (decoderAt true true 7 0x7B 0 false).cfg.sentinel) := by decide

/-- V46, at the ninth byte. -/
theorem witness_FinishedByteIsStored_ninth :
    (decoderAt true true 7 0x76 8 false).phase = .byteInProgress ∧
    (decoderAt true true 7 0x76 8 false).bitCount = 7 ∧
    SymbolEdge (decoderAt true true 7 0x76 8 false).cfg true 7 .low ∧
    (0xED : Byte) = ((decoderAt true true 7 0x76 8 false).byteAccum.extractLsb' 0 7).concat true ∧
    (decoderAt true true 7 0x76 8 false).bytesCollected.toNat ≤ 8 ∧
    ((decoderAt true true 7 0x76 8 false).bytesCollected = 0 →
      (decoderAt true true 7 0x76 8 false).cfg.sentinelMode = .off ∨
        (0xED : Byte) = (decoderAt true true 7 0x76 8 false).cfg.sentinel) := by decide

/-- V43: in mode OFF a byte 0 is stored whatever it is. -/
theorem witness_FinishedByteIsStored_off :
    (State.phase { decoderAt true true 7 0x76 0 false with
        cfg := { Config.ref with sentinelMode := .off } } = .byteInProgress) ∧
    SymbolEdge { Config.ref with sentinelMode := .off } true 7 .low ∧
    (0xED : Byte) = ((0x76 : Byte).extractLsb' 0 7).concat true ∧ ((0 : BitVec 4).toNat ≤ 8) := by decide

/-- V42 in mode STRICT. -/
def strictFirstByte : State :=
  { decoderAt true true 7 0x76 0 false with cfg := { Config.ref with sentinelMode := .strict } }

theorem witness_WrongFirstByteIsDiscarded_strict :
    strictFirstByte.phase = .byteInProgress ∧ strictFirstByte.bitCount = 7 ∧
    SymbolEdge strictFirstByte.cfg true 7 .low ∧
    (0xED : Byte) = (strictFirstByte.byteAccum.extractLsb' 0 7).concat true ∧
    strictFirstByte.bytesCollected = 0 ∧ (0xED : Byte) ≠ strictFirstByte.cfg.sentinel ∧
    strictFirstByte.cfg.sentinelMode = .strict := by decide

/-- V44. -/
theorem witness_WrongFirstByteIsDiscarded_recover :
    (decoderAt true true 7 0x09 0 false).phase = .byteInProgress ∧
    (decoderAt true true 7 0x09 0 false).bitCount = 7 ∧
    SymbolEdge (decoderAt true true 7 0x09 0 false).cfg false 24 .high ∧
    (0x12 : Byte) = ((decoderAt true true 7 0x09 0 false).byteAccum.extractLsb' 0 7).concat false ∧
    (decoderAt true true 7 0x09 0 false).bytesCollected = 0 ∧
    (0x12 : Byte) ≠ (decoderAt true true 7 0x09 0 false).cfg.sentinel ∧
    (decoderAt true true 7 0x09 0 false).cfg.sentinelMode = .recover ∧
    (0x12 : Byte) ≠ (decoderAt true true 7 0x09 0 false).cfg.sentinelAlt := by decide

/-- V41. -/
theorem witness_LostPulseByteIsRepaired :
    (decoderAt true true 7 0x76 0 false).phase = .byteInProgress ∧
    (decoderAt true true 7 0x76 0 false).bitCount = 7 ∧
    SymbolEdge (decoderAt true true 7 0x76 0 false).cfg true 7 .low ∧
    (decoderAt true true 7 0x76 0 false).cfg.sentinelAlt =
      ((decoderAt true true 7 0x76 0 false).byteAccum.extractLsb' 0 7).concat true ∧
    (decoderAt true true 7 0x76 0 false).bytesCollected = 0 ∧
    (decoderAt true true 7 0x76 0 false).cfg.sentinelAlt ≠ (decoderAt true true 7 0x76 0 false).cfg.sentinel ∧
    (decoderAt true true 7 0x76 0 false).cfg.sentinelMode = .recover := by decide

/-- V47. -/
theorem witness_TenthByteCompletesMessage :
    lastBit.phase = .byteInProgress ∧ lastBit.bitCount = 7 ∧ SymbolEdge lastBit.cfg false 24 .high ∧
    (0x06 : Byte) = (lastBit.byteAccum.extractLsb' 0 7).concat false ∧ lastBit.bytesCollected = 9 ∧
    lastBit.learnPending = false := by decide

/-- V48: `lastBit` with a learn pending, the registry empty and the store zero. -/
def lastBitLearning : State := { lastBit with learnPending := true, store := zeroStore }

/-- Room at the first index (V48). -/
theorem witness_CompletionFiresPendingLearn_empty :
    lastBitLearning.phase = .byteInProgress ∧ lastBitLearning.bitCount = 7 ∧
    SymbolEdge lastBitLearning.cfg false 24 .high ∧ lastBitLearning.bytesCollected = 9 ∧
    m1 = lastBitLearning.buf.set 9 ((lastBitLearning.byteAccum.extractLsb' 0 7).concat false) ∧
    lastBitLearning.learnPending = true ∧ lastBitLearning.regCount.toNat = (0 : EntryIndex).val ∧
    Memory.wf lastBitLearning.store := by decide

/-- Room at the last index, and none (V49). -/
theorem witness_CompletionFiresPendingLearn_last :
    (State.phase { lastBitLearning with regCount := 5 } = .byteInProgress ∧
      ({ lastBitLearning with regCount := 5 } : State).regCount.toNat = (5 : EntryIndex).val) ∧
    State.phase { lastBitLearning with regCount := 6 } = .byteInProgress ∧
    6 ≤ ({ lastBitLearning with regCount := 6 } : State).regCount.toNat := by decide

theorem witness_EdgeWritesOnlyTheDecoder :
    (∃ t, exec (.edge 24 .high) lastBit = .next t) ∧ ¬FiresLearn 24 .high lastBit :=
  ⟨⟨_, rfl⟩, fun h => absurd h.2.1 (by decide)⟩

theorem witness_EdgeCountsAtMostOnce : ∃ t, exec (.edge 15 .low) insideByte = .next t := ⟨_, rfl⟩

theorem inv_ready : DecoderInv ready := by constructor <;> decide

theorem inv_insideByte : DecoderInv insideByte := by constructor <;> decide

theorem inv_betweenBytes : DecoderInv betweenBytes := by constructor <;> decide

theorem inv_lastBit : DecoderInv lastBit := by constructor <;> decide

theorem inv_lastBitLearning : DecoderInv lastBitLearning := by constructor <;> decide

/-- Each phase; in `BYTE_IN_PROGRESS` the last bit of a message. -/
theorem witness_PhaseAfterEdge :
    (DecoderInv ready ∧ ready.phase = .messageReady ∧ ∃ t, exec (.edge 7 .low) ready = .next t) ∧
    (DecoderInv betweenBytes ∧ betweenBytes.phase = .packetStarted ∧
      classify betweenBytes.cfg 10 .low = .shortPulse ∧ ∃ t, exec (.edge 10 .low) betweenBytes = .next t) ∧
    (DecoderInv insideByte ∧ insideByte.phase = .byteInProgress ∧
      classify insideByte.cfg 5 .high = .ignore ∧ classify insideByte.cfg 28 .low = .invalid .band) ∧
    DecoderInv lastBit ∧ lastBit.phase = .byteInProgress ∧ lastBit.bitCount = 7 ∧
      lastBit.bytesCollected = 9 ∧ classify lastBit.cfg 24 .high = .longPulse ∧
      ∃ t, exec (.edge 24 .high) lastBit = .next t :=
  ⟨⟨inv_ready, by decide, _, rfl⟩, ⟨inv_betweenBytes, by decide, by decide, _, rfl⟩,
    ⟨inv_insideByte, by decide, by decide, by decide⟩, inv_lastBit, by decide, by decide, by decide, by decide,
    _, rfl⟩

/-- The clauses of byte 0: accepted, repaired and discarded. -/
theorem witness_PhaseAfterEdge_first :
    (DecoderInv (decoderAt true true 7 0x7B 0 false) ∧
      classify Config.ref 24 .high = .longPulse ∧ (0xF6 : Byte) = ((0x7B : Byte).extractLsb' 0 7).concat false) ∧
    (DecoderInv (decoderAt true true 7 0x76 0 false) ∧
      classify Config.ref 7 .low = .shortPulse ∧ (0xED : Byte) = ((0x76 : Byte).extractLsb' 0 7).concat true) ∧
    DecoderInv strictFirstByte := by
  refine ⟨⟨?_, by decide, by decide⟩, ⟨?_, by decide, by decide⟩, ?_⟩ <;> constructor <;> decide

theorem witness_TakeHandsOverOnce : ready.messageReady = true ∧ insideByte.messageReady = false := by decide

theorem witness_WaitAnswersWhenReady :
    ready.messageReady = true ∧ lastBit.messageReady = false ∧
    ({ ready with consumerWaiting := true } : State).consumerWaiting = true ∧
    ({ ready with consumerWaiting := true } : State).messageReady = true := by decide

theorem witness_OnlyResetEndsWaitEarly :
    ({ lastBit with consumerWaiting := true, inputs := [.edge 0x10018] } : State).consumerWaiting = true ∧
    ({ lastBit with consumerWaiting := true, inputs := [.edge 0x10018] } : State).messageReady = false ∧
    ∃ t, step { lastBit with consumerWaiting := true, inputs := [.edge 0x10018] } = .next t :=
  ⟨rfl, rfl, _, rfl⟩

/-- A first match at index 0 (V73), a match at the last index, and no match (V74). -/
theorem witness_LookupFindsFirstMatch :
    (MatchAt loadedSta #v[0x00, 0x00, 0x11, 0x00, 0xA1, 0xA2, 0xA3, 0xA4, 0xA5, 0xA6] 0 ∧
      ∀ j : EntryIndex, j < 0 →
        ¬MatchAt loadedSta #v[0x00, 0x00, 0x11, 0x00, 0xA1, 0xA2, 0xA3, 0xA4, 0xA5, 0xA6] j) ∧
    (MatchAt { State.reset with regCount := 6, ent := State.reset.ent.set 5 (recordedEntry m1) } m1 5 ∧
      ∀ j : EntryIndex, j < 5 →
        ¬MatchAt { State.reset with regCount := 6, ent := State.reset.ent.set 5 (recordedEntry m1) } m1 j) ∧
    ∀ i : EntryIndex, ¬MatchAt loadedSta #v[0x00, 0x00, 0x22, 0x00, 0xB1, 0xB2, 0xB3, 0xB4, 0xB5, 0xB6] i := by
  unfold MatchAt; decide

/-- The first and the last index. -/
theorem witness_AddAppendsEntry :
    ((State.reset.regCount.toNat = (0 : EntryIndex).val ∧ Memory.wf State.reset.store)) ∧
    ({ State.reset with regCount := 5, store := zeroStore } : State).regCount.toNat = (5 : EntryIndex).val ∧
    Memory.wf ({ State.reset with regCount := 5, store := zeroStore } : State).store := by decide

theorem witness_AddOnFullRegistry : ({ State.reset with regCount := 6 } : State).regCount = 6 := by decide

theorem witness_LearnStoresWaitingMessage :
    ready.messageReady = true ∧ ready.regCount.toNat = (0 : EntryIndex).val ∧ Memory.wf ready.store ∧
    ({ ready with regCount := 5 } : State).regCount.toNat = (5 : EntryIndex).val ∧
    6 ≤ ({ ready with regCount := 6 } : State).regCount.toNat := by decide

theorem witness_LearnWaitsForMessage : State.reset.messageReady = false := by decide

theorem witness_TmoEndsPendingLearn :
    lastBitLearning.learnPending = true ∧ State.reset.learnPending = false := by decide

theorem witness_EraseClearsRegistry : Memory.wf loadedSta.store := by decide

/-- An edge word, and a command word of a free consumer. -/
theorem witness_StepRunsTheDecodedOperation :
    State.heldWaitReady { lastBit with inputs := [.edge 0x10018, .command 0x300000000000000000000] } = false ∧
    decode (.edge 0x10018) = .ok (.edge 24 .high) ∧
    State.heldWaitReady { lastBit with inputs := [.command 0x300000000000000000000] } = false ∧
    State.consumerFree { lastBit with inputs := [.command 0x300000000000000000000] } = true ∧
    decode (.command 0x300000000000000000000) = .ok .take := by decide

theorem witness_TableWordRunsFirst :
    decodeTableWord 88 0x300000000000000000000 = some .take ∧ decodeTableWord 24 0x10018 = some (.edge 24 .high) ∧
    decodeTableWord 8 1 = some .tmo := by decide

/-- Nothing presented, and a command of a consumer that is waiting. -/
theorem witness_NothingPresentedNothingHappens :
    (State.reset.heldWaitReady = false ∧
      ∀ p ∈ State.reset.inputs, p.port = .command ∧ State.reset.consumerFree = false) ∧
    State.heldWaitReady { lastBit with consumerWaiting := true, inputs := [.command 0] } = false ∧
    ∀ p ∈ ({ lastBit with consumerWaiting := true, inputs := [.command 0] } : State).inputs,
      p.port = .command ∧
        State.consumerFree { lastBit with consumerWaiting := true, inputs := [.command 0] } = false := by decide

theorem witness_BlockedConsumerPresentsNoCommand :
    State.consumerFree { lastBit with learnPending := true, inputs := [.command 0, .edge 7] } = false ∧
    ∃ t, State.fetch { lastBit with learnPending := true, inputs := [.command 0, .edge 7] } =
      some (.edge 7, t) := ⟨rfl, _, rfl⟩

/-- Both with a reset pin at 0 and with none; an edge and a `TMO` meet a pending learn (95_test_vectors.md
V116). -/
theorem witness_SimultaneousEventsInOrder :
    lastBitLearning.inputs = [] ∧ lastBitLearning.heldWaitReady = false ∧ lastBitLearning.consumerWaiting = false ∧
    (some 0 : Option (BitVec 1)) ≠ some 1 ∧ (none : Option (BitVec 1)) ≠ some 1 ∧
    ready.inputs = [] ∧ ready.heldWaitReady = false ∧ ready.consumerWaiting = false ∧ ready.learnPending = false ∧
    decode (.edge 0x10018) = .ok (.edge 24 .high) ∧
    decode (.command 0x300000000000000000000) = .ok .take := by
  decide

/-- One `LEARN` finds no message ready, the `TAKE` and the other `LEARN` find one. -/
theorem witness_CommandsRespondOnce :
    (Instr.port (.learn 5000) = .command ∧ insideByte.messageReady = false ∧
      ∃ t, exec (.learn 5000) insideByte = .next t) ∧
    (Instr.port .take = .command ∧ ∃ t, exec .take ready = .next t) ∧
    Instr.port (.learn 5000) = .command ∧ ready.messageReady = true ∧ ∃ t, exec (.learn 5000) ready = .next t :=
  ⟨⟨rfl, rfl, _, rfl⟩, ⟨rfl, _, rfl⟩, rfl, rfl, _, rfl⟩

theorem witness_ConfigurationNeverWritten : ∃ t, step { lastBit with inputs := [.edge 0x10018] } = .next t :=
  ⟨_, rfl⟩

theorem sentinel_lastBit : SentinelKept lastBit := fun _ _ => by decide

theorem range_lastBitLearning : RangeInv lastBitLearning := by constructor <;> decide

/-- The step completes the message and fires the learn. -/
theorem witness_StepKeepsDecoderInv :
    DecoderInv { lastBitLearning with inputs := [.edge 0x10018] } ∧
    ∃ t, step { lastBitLearning with inputs := [.edge 0x10018] } = .next t :=
  ⟨by constructor <;> decide, _, rfl⟩

theorem witness_StepKeepsSentinel :
    DecoderInv { lastBit with inputs := [.edge 0x10018] } ∧ SentinelKept { lastBit with inputs := [.edge 0x10018] } ∧
    ∃ t, step { lastBit with inputs := [.edge 0x10018] } = .next t :=
  ⟨by constructor <;> decide, fun _ _ => by decide, _, rfl⟩

theorem witness_StepKeepsRanges :
    RangeInv { lastBitLearning with inputs := [.edge 0x10018] } ∧
    ∃ t, step { lastBitLearning with inputs := [.edge 0x10018] } = .next t :=
  ⟨by constructor <;> decide, _, rfl⟩

theorem witness_StepKeepsStoreForm :
    Memory.wf ({ lastBitLearning with inputs := [.edge 0x10018] } : State).store ∧
    ∃ t, step { lastBitLearning with inputs := [.edge 0x10018] } = .next t :=
  ⟨by decide, _, rfl⟩

theorem witness_LoadsMakeCoherent :
    Memory.wf loadedSta.store ∧ (∃ t, exec .rload loadedSta = .next t) ∧
    (∃ t, exec .setup loadedSta = .next t) ∧ ∃ t, exec .erase loadedSta = .next t :=
  ⟨by decide, ⟨_, rfl⟩, ⟨_, rfl⟩, _, rfl⟩

theorem coherent_loadedSta : Coherent loadedSta := by constructor <;> decide

/-- The registry and the store empty: what `ERASE` leaves. -/
def erased : State := { State.reset with store := zeroStore, inputs := [.command 0xAF6F6EEEE010203040506] }

theorem coherent_erased : Coherent erased := by constructor <;> decide

theorem no_reset_erased : ¬StepResets erased := by
  rintro ⟨-, p, t, hf, hd⟩
  cases hf
  exact absurd hd (by decide)

theorem witness_CoherenceKept :
    Memory.wf erased.store ∧ Coherent erased ∧ ¬StepResets erased ∧ ∃ t, step erased = .next t :=
  ⟨by decide, coherent_erased, no_reset_erased, _, rfl⟩

theorem witness_PairedBelowCountKept :
    Memory.wf erased.store ∧ Coherent erased ∧ PairedBelowCount erased ∧ erased.regCorrupt = false ∧
    ¬StepResets erased ∧ ∃ t, step erased = .next t :=
  ⟨by decide, coherent_erased, ⟨by decide, by decide⟩, rfl, no_reset_erased, _, rfl⟩

theorem witness_PresentEntriesStay :
    Instr.add m1 ≠ .rload ∧ Instr.add m1 ≠ .setup ∧ Instr.add m1 ≠ .erase ∧ Instr.add m1 ≠ .rst ∧
    (∃ t, exec (.add m1) loadedSta = .next t) ∧ (2 : EntryIndex).val < loadedSta.regCount.toNat :=
  ⟨by decide, by decide, by decide, by decide, ⟨_, rfl⟩, by decide⟩

theorem witness_RegistryCommutesWithEdge :
    (∃ m, Instr.add m1 = .add m) ∧ ¬FiresLearn 24 .high lastBit :=
  ⟨⟨m1, rfl⟩, fun h => absurd h.2.1 (by decide)⟩

/-- Two states with two bytes collected that differ in the other eight. -/
theorem witness_DeadBufferUnobservable :
    DecoderInv insideByte ∧
    SameButDeadBuffer insideByte { insideByte with buf := insideByte.buf.set 2 0xAB, freeCount := 7 } :=
  ⟨inv_insideByte, rfl, by decide⟩

theorem witness_OperationsWithoutStoreAccess :
    (∃ t, exec .take ready = .next t) ∧ (∀ d l, Instr.take = .edge d l → ¬FiresLearn d l ready) ∧
    Instr.take ≠ .rload ∧ Instr.take ≠ .setup ∧ Instr.take ≠ .erase ∧ (∀ m, Instr.take ≠ .add m) ∧
    ∀ u, Instr.take ≠ .learn u :=
  ⟨⟨_, rfl⟩, (fun _ _ h => by cases h), by decide, by decide, by decide, (fun _ h => by cases h),
    (fun _ h => by cases h)⟩

/-- The durations of V90, V91 and V92: mid band, and both ends of the bands. -/
theorem fits_bands :
    Timing.Fits .canonical Config.ref ∧ Timing.Fits ⟨6, 21, 5, 5, 200⟩ Config.ref ∧
    Timing.Fits ⟨10, 27, 0, 0, 28⟩ Config.ref := by
  refine ⟨?_, ?_, ?_⟩ <;> constructor <;> decide

theorem witness_FrameRoundTrip :
    State.reset.cfg.wf ∧ Timing.Fits .canonical State.reset.cfg ∧ State.reset.messageReady = false ∧
    State.reset.learnPending = false ∧ m1[0] = State.reset.cfg.sentinel :=
  ⟨by decide, fits_bands.1, rfl, rfl, by decide⟩

theorem witness_FrameRoundTrip_off :
    ({ State.reset with cfg := { Config.ref with sentinelMode := .off } } : State).cfg.wf ∧
    ({ State.reset with cfg := { Config.ref with sentinelMode := .off } } : State).cfg.sentinelMode = .off := by
  decide

theorem witness_FrameWithLostPulse :
    State.reset.cfg.wf ∧ Timing.Fits .canonical State.reset.cfg ∧ State.reset.messageReady = false ∧
    State.reset.learnPending = false ∧ State.reset.cfg.sentinelMode = .recover ∧
    State.reset.cfg.sentinel = 0xF6 ∧ State.reset.cfg.sentinelAlt = 0xED ∧ m1[0] = 0xF6 ∧ 0 < 6 ∧ 5 < 6 :=
  ⟨by decide, fits_bands.1, rfl, rfl, rfl, rfl, rfl, by decide, by decide, by decide⟩

theorem witness_DurationWidthUnseen :
    State.reset.cfg.wf ∧ State.reset.cfg.longLim < 2 ^ State.reset.cfg.durWidth ∧
    State.reset.cfg.longLim < 2 ^ edgeFieldWidth := by
  decide

/-- 92_eei_decisions.md D4: a longer duration is presented as 0xFFFF. -/
theorem test_long_duration_saturates : presentedEdge Config.ref 70000 .high = 0x1FFFF := by decide

end Sys2Proof.Tests
end

section
/-! PROOFS. The values after `RST` (10_state.md R44). -/

namespace Sys2Proof.Machine

/-- The state that `RST` leaves (`exec_rst`). -/
def State.afterRst (s : State) : State :=
  { s with
    packetStarted := false
    byteStarted := false
    bitCount := 0
    byteAccum := 0
    bytesCollected := 0
    buf := Vector.ofFn fun i => Config.freeBufferByte s.freeCount i.val
    messageReady := false
    cnt := Vector.replicate 4 0
    learnPending := false
    regCount := 0
    ent := Vector.replicate 6 Entry.empty
    regCorrupt := false
    consumerWaiting := false
    freeCount := s.freeCount + 1 }

theorem exec_rst (s : State) : exec .rst s = .next s.afterRst := rfl

@[simp] theorem State.afterRst_messageReady (s : State) : s.afterRst.messageReady = false := rfl
@[simp] theorem State.afterRst_packetStarted (s : State) : s.afterRst.packetStarted = false := rfl
@[simp] theorem State.afterRst_store (s : State) : s.afterRst.store = s.store := rfl

theorem State.afterRst_phase (s : State) : s.afterRst.phase = .idle :=
  State.phase_eq_idle.2 ⟨s.afterRst_messageReady, s.afterRst_packetStarted⟩

theorem State.msgReadyWire_eq (s : State) : s.msgReadyWire = s.messageReady := rfl

/-- An empty entry as 10_state.md R44 writes it: six zero bytes, switch id 0, not paired. -/
theorem Entry.empty_eq : Entry.empty = ⟨#v[0, 0, 0, 0, 0, 0], 0, false⟩ := rfl

theorem clearedCounters_eq : Vector.replicate 4 (0 : Nat) = #v[0, 0, 0, 0] := rfl

/-- Settles O29: the state `RST` leaves is named, its phase and wire follow from its flags, and R44's table is
that state with the cleared counters and the empty entries written out. -/
theorem rstRestoresResetValues : Obligations.RstRestoresResetValues := by
  intro s
  have hwire : s.afterRst.msgReadyWire = false := by
    rw [State.msgReadyWire_eq, State.afterRst_messageReady]
  refine ⟨s.afterRst, exec_rst s, s.afterRst_phase, hwire, s.afterRst_store, ?_⟩
  rw [← Entry.empty_eq, ← clearedCounters_eq]
  rfl

end Sys2Proof.Machine
end

section
/-! PROOFS. The edge word and its two fields (30_encoding.md R91), then the codes of a command word
(30_encoding.md R92, R95, R96, R98). -/

namespace Sys2Proof

/-! ### The level bit -/

@[simp] theorem levelOfBit_eq_high {b : Bool} : levelOfBit b = .high ↔ b = true := by
  cases b <;> decide

@[simp] theorem bitOfLevel_eq_true {l : Level} : bitOfLevel l = true ↔ l = .high := by
  cases l <;> decide

@[simp] theorem bitOfLevel_levelOfBit (b : Bool) : bitOfLevel (levelOfBit b) = b := by
  cases b <;> rfl

/-! ### The duration field -/

/-- A duration that fits the field stands in it unchanged. -/
theorem edgeField_of_lt {d : Nat} (h : d < 2 ^ edgeFieldWidth) : edgeField d = d :=
  Nat.min_eq_left (Nat.le_sub_one_of_lt h)

/-- A longer duration saturates the field. -/
theorem edgeField_of_le {d : Nat} (h : 65535 ≤ d) : edgeField d = 65535 :=
  Nat.min_eq_right h

/-! ### The edge word -/

theorem extractLsb'_edgeWord (d : Nat) (l : Level) :
    (edgeWord d l).extractLsb' 0 16 = BitVec.ofNat 16 (edgeField d) := by
  rw [edgeWord, BitVec.extractLsb'_append_eq_of_add_le (by omega), BitVec.extractLsb'_eq_self]

theorem getLsbD_edgeWord (d : Nat) (l : Level) : (edgeWord d l).getLsbD 16 = bitOfLevel l := by
  rw [edgeWord, BitVec.getLsbD_append]
  simp

/-- An edge word is its level bit in front of its duration field: no bit of it belongs to neither. -/
theorem ofBool_append_extractLsb' (w : BitVec 17) :
    BitVec.ofBool (w.getLsbD 16) ++ w.extractLsb' 0 16 = w := by
  ext i hi
  rw [BitVec.getElem_append]
  split
  · next h => simp [BitVec.getLsbD_eq_getElem hi]
  · next h =>
    obtain rfl : i = 16 := by omega
    simp

theorem edgeField_extractLsb' (w : BitVec 17) :
    edgeField (w.extractLsb' 0 16).toNat = (w.extractLsb' 0 16).toNat :=
  edgeField_of_lt (w.extractLsb' 0 16).isLt

/-- The word of an edge read off a word is that word. -/
theorem edgeWord_of_fields (w : BitVec 17) :
    edgeWord (w.extractLsb' 0 16).toNat (levelOfBit (w.getLsbD 16)) = w := by
  rw [edgeWord, edgeField_extractLsb', BitVec.ofNat_toNat, BitVec.setWidth_eq, bitOfLevel_levelOfBit,
    ofBool_append_extractLsb']

theorem encode_edge (d : Nat) (l : Level) : encode (.edge d l) = .edge (edgeWord d l) := rfl

theorem decode_edge (w : BitVec 17) :
    decode (.edge w) = .ok (.edge (w.extractLsb' 0 16).toNat (levelOfBit (w.getLsbD 16))) := rfl

theorem wf_edge {d : Nat} {l : Level} : (Instr.edge d l).wf = true ↔ d < 2 ^ edgeFieldWidth :=
  decide_eq_true_iff

/-- Settles O2: the operands of a word's `EDGE` are its fields, which determine the word; the field of a long
duration is saturated. -/
theorem everyEdgeWordIsAnEdge : Obligations.EveryEdgeWordIsAnEdge := by
  refine ⟨fun w => ⟨_, _, decode_edge w, ?wf, rfl, levelOfBit_eq_high, ?roundTrip⟩,
    fun d l hd => ⟨edgeWord d l, encode_edge d l, ?saturated, ?level⟩⟩
  case wf => exact wf_edge.2 (w.extractLsb' 0 16).isLt
  case roundTrip => rw [encode_edge, edgeWord_of_fields]
  case saturated => rw [extractLsb'_edgeWord, edgeField_of_le hd]; rfl
  case level => rw [getLsbD_edgeWord, bitOfLevel_eq_true]

/-! ### The codes of a command word -/

/-- Byte `i` of the message an operand holds (30_encoding.md R96). -/
theorem getElem_messageOfBits (arg : BitVec 80) (i : Fin 10) :
    (messageOfBits arg)[i.val] = arg.extractLsb' (72 - 8 * i.val) 8 := by
  rw [messageOfBits, Vector.getElem_ofFn]

/-- Settles O3: a command word is taken apart into its code and its operand, and each code is then one row of
the table of `decodeOp`. -/
theorem commandCodesDecode : Obligations.CommandCodesDecode := by
  intro arg
  simp only [decode_command_append]
  exact ⟨rfl, rfl, rfl, rfl, rfl, rfl, rfl, rfl, rfl, rfl, rfl, rfl, rfl, rfl,
    messageOfBits arg, getElem_messageOfBits arg, rfl, rfl⟩

end Sys2Proof
end

section
/-! PROOFS. An edge under the glitch limit (40_classifier.md R131, 41_decoder.md R152). -/

namespace Sys2Proof.Machine

/-- The decoder's action on an ignored edge is none, in every phase (41_decoder.md R152). -/
@[simp] theorem State.onPulse_ignore (s : State) : s.onPulse .ignore = s := rfl

/-- An edge classified IGNORE leaves the whole state as it was: the decoder does nothing, and with no message
completed the learn hook does not fire. -/
theorem exec_edge_of_ignore {s : State} (hready : s.messageReady = false) {d : Nat} {l : Level}
    (hclass : classify s.cfg d l = .ignore) : exec (.edge d l) s = .next s := by
  have hpulse : s.onPulse (classify s.cfg d l) = s := by rw [hclass, State.onPulse_ignore]
  exact exec_edge_of_onPulse hready hpulse hready

/-- Settles O6: the classifier's first test gives IGNORE at either level, and an ignored edge changes nothing. -/
theorem glitchEdgeChangesNothing : Obligations.GlitchEdgeChangesNothing := by
  intro s d l hready hshort
  have hclass : classify s.cfg d l = .ignore := classify_of_glitch hshort l
  exact ⟨hclass, exec_edge_of_ignore hready hclass⟩

end Sys2Proof.Machine
end

section
/-! PROOFS. An edge dropped while a message is ready, and the short pulses that start a packet and a byte
(41_decoder.md R151, R154, R155). -/

namespace Sys2Proof.Machine

/-- Settles O9: the drop is the first test of an `EDGE` step. -/
theorem readyDropsEveryEdge : Obligations.ReadyDropsEveryEdge :=
  fun _ d l hready => exec_edge_of_ready hready d l

/-! ### The short pulse by phase -/

theorem State.onPulse_shortPulse_of_idle {s : State} (h : s.phase = .idle) :
    s.onPulse .shortPulse = s.startPacket := by
  obtain ⟨-, hpacket⟩ := State.phase_eq_idle.1 h
  simp [State.onPulse, hpacket]

theorem State.onPulse_shortPulse_of_packetStarted {s : State} (h : s.phase = .packetStarted) :
    s.onPulse .shortPulse = s.startByte := by
  obtain ⟨-, hpacket, hbyte⟩ := State.phase_eq_packetStarted.1 h
  simp [State.onPulse, hpacket, hbyte]

theorem State.startPacket_phase {s : State} (h : s.messageReady = false) :
    s.startPacket.phase = .packetStarted :=
  State.phase_eq_packetStarted.2 ⟨h, s.startPacket_packetStarted, s.startPacket_byteStarted⟩

theorem State.startByte_phase {s : State} (h : s.phase = .packetStarted) :
    s.startByte.phase = .byteInProgress := by
  obtain ⟨hready, hpacket, -⟩ := State.phase_eq_packetStarted.1 h
  exact State.phase_eq_byteInProgress.2 ⟨hready, hpacket, s.startByte_byteStarted⟩

/-- Settles O10: the pulse is classified short, which in `IDLE` is `start_packet()`; no message gets ready, so
the learn hook does nothing. -/
theorem shortPulseStartsPacket : Obligations.ShortPulseStartsPacket := by
  intro s d hidle hband
  obtain ⟨hready, -⟩ := State.phase_eq_idle.1 hidle
  have hpulse : s.onPulse (classify s.cfg d .low) = s.startPacket := by
    rw [classify_short_low hband, State.onPulse_shortPulse_of_idle hidle]
  exact ⟨s.startPacket, exec_edge_of_onPulse hready hpulse hready, State.startPacket_phase hready, rfl⟩

/-- Settles O11: the pulse is classified short, which in `PACKET_STARTED` is `start_byte()`; no message gets
ready, so the learn hook does nothing. -/
theorem shortPulseStartsByte : Obligations.ShortPulseStartsByte := by
  intro s d hstarted hband
  obtain ⟨hready, -, -⟩ := State.phase_eq_packetStarted.1 hstarted
  have hpulse : s.onPulse (classify s.cfg d .low) = s.startByte := by
    rw [classify_short_low hband, State.onPulse_shortPulse_of_packetStarted hstarted]
  exact ⟨s.startByte, exec_edge_of_onPulse hready hpulse hready, State.startByte_phase hstarted, rfl⟩

end Sys2Proof.Machine
end

section
/-! PROOFS. `POLL` and `TAKE` (41_decoder.md R166, R168). -/

namespace Sys2Proof.Machine

/-! ### POLL -/

theorem decode_poll (arg : BitVec 80) : decode (.command (0x2#4 ++ arg)) = .ok .poll := by
  rw [decode_command_append]; rfl

theorem exec_poll (s : State) : exec .poll s = .next (s.respond s.messageReady 0) := rfl

/-- Settles O21: `POLL` is one response, and a response writes nothing else. -/
theorem pollAnswersReadiness : Obligations.PollAnswersReadiness :=
  ⟨decode_poll, exec_poll⟩

/-! ### TAKE -/

theorem decode_take (arg : BitVec 80) : decode (.command (0x3#4 ++ arg)) = .ok .take := by
  rw [decode_command_append]; rfl

/-- The state that a `TAKE` of a ready message leaves (`exec_take_of_ready`). -/
def State.afterTake (s : State) : State :=
  State.respond { s with messageReady := false }.decInit true (messageBits s.buf)

theorem exec_take_of_ready {s : State} (h : s.messageReady = true) : exec .take s = .next s.afterTake :=
  if_pos h

theorem exec_take_of_not_ready {s : State} (h : s.messageReady = false) :
    exec .take s = .next (s.respond false 0) := if_neg (by simp [h])

@[simp] theorem State.afterTake_messageReady (s : State) : s.afterTake.messageReady = false := rfl
@[simp] theorem State.afterTake_packetStarted (s : State) : s.afterTake.packetStarted = false := rfl

theorem State.afterTake_phase (s : State) : s.afterTake.phase = .idle :=
  State.phase_eq_idle.2 ⟨s.afterTake_messageReady, s.afterTake_packetStarted⟩

/-- Settles O22: `TAKE` tests `message_ready`; the state it leaves after a message has the flag clear, so the
second `TAKE` is the failing case of the first. -/
theorem takeHandsOverOnce : Obligations.TakeHandsOverOnce := by
  refine ⟨decode_take, fun s hready => ⟨s.afterTake, ?taken, s.afterTake_phase, rfl, ?second⟩,
    fun s hready => ?notReady⟩
  case taken => exact exec_take_of_ready hready
  case second => exact exec_take_of_not_ready s.afterTake_messageReady
  case notReady => exact exec_take_of_not_ready hready

end Sys2Proof.Machine
end

section
/-! PROOFS. A lookup in the working copy (42_registry.md R193). -/

namespace Sys2Proof.Machine

theorem identity_eq_identityOf {e : Identity} {m : Message} :
    e = identityOf m ↔ ∀ j : Fin 6, e[j.val] = m[4 + j.val] := by
  simp [identityOf, Vector.ext_iff, Fin.forall_iff]

/-- R193's match of an entry is the test that the lookup makes of each index. -/
theorem matchAt_iff {s : State} {m : Message} {i : EntryIndex} :
    MatchAt s m i ↔ i.val < s.regCount.toNat ∧ s.ent[i.val].matchesProbe m = true := by
  rw [Entry.matchesProbe_iff, identity_eq_identityOf]
  rfl

theorem State.lookupIndex_of_first {s : State} {m : Message} {i : EntryIndex} (hi : MatchAt s m i)
    (hfirst : ∀ j : EntryIndex, j < i → ¬MatchAt s m j) : s.lookupIndex m = some i :=
  (s.lookupIndex_eq_some m i).2 ⟨matchAt_iff.1 hi, fun j hj hm => hfirst j hj (matchAt_iff.2 hm)⟩

theorem State.lookupIndex_of_no_match {s : State} {m : Message} (h : ∀ i : EntryIndex, ¬MatchAt s m i) :
    s.lookupIndex m = none :=
  (s.lookupIndex_eq_none m).2 fun i hlt =>
    Bool.eq_false_iff.2 fun hm => h i (matchAt_iff.2 ⟨hlt, hm⟩)

theorem exec_lookup_of_some {s : State} {m : Message} {i : EntryIndex} (h : s.lookupIndex m = some i) :
    exec (.lookup m) s = .next (s.respond true (indexData i)) := by
  simp only [exec, execLookup, h]

theorem exec_lookup_of_none {s : State} {m : Message} (h : s.lookupIndex m = none) :
    exec (.lookup m) s = .next (s.respond false 0) := by
  simp only [exec, execLookup, h]

/-- Settles O31: the lookup's index is the lowest match, or none where nothing matches, and either answer is one
response. -/
theorem lookupFindsFirstMatch : Obligations.LookupFindsFirstMatch :=
  fun _ _ =>
    ⟨fun _ hi hfirst => exec_lookup_of_some (State.lookupIndex_of_first hi hfirst),
      fun hnone => exec_lookup_of_none (State.lookupIndex_of_no_match hnone)⟩

end Sys2Proof.Machine
end

section
/-! PROOFS. `ADD` with room and on a full registry (42_registry.md R195, R196). -/

namespace Sys2Proof.Machine

theorem exec_add (s : State) (m : Message) : exec (.add m) s = .next (s.addMessage m) := rfl

theorem exec_add_of_room (s : State) {i : EntryIndex} (hi : s.regCount.toNat = i.val) (m : Message) :
    exec (.add m) s = .next ((s.appendAt i m).respond true (indexData i)) := by
  rw [exec_add, s.addMessage_of_room hi m]

theorem exec_add_of_full (s : State) (h : 6 ≤ s.regCount.toNat) (m : Message) :
    exec (.add m) s = .next (s.respond false 0) := by
  rw [exec_add, s.addMessage_of_full h m]

/-- Settles O32: the registry's count is the index that `ADD` appends at; the append writes what R195 lists, and
the answer is one response. -/
theorem addAppendsEntry : Obligations.AddAppendsEntry := by
  intro s m i hi hm
  have hstore : ((s.appendAt i m).respond true (indexData i)).store = (s.appendAt i m).store := rfl
  have hcfg : ((s.appendAt i m).respond true (indexData i)).cfg = s.cfg := s.appendAt_cfg i m
  refine ⟨_, exec_add_of_room s hi m, State.appended_of_appendAt hm hstore hcfg, ?frame⟩
  conv_lhs => rw [s.appendAt_eq hi m]
  rfl

/-- Settles O33: a count of 6 leaves no room, and `ADD` is then one response. -/
theorem addOnFullRegistry : Obligations.AddOnFullRegistry := by
  intro s m hfull
  have h6 : 6 ≤ s.regCount.toNat := by simp [hfull]
  exact exec_add_of_full s h6 m

end Sys2Proof.Machine
end

section
/-! PROOFS. `RLOAD` and `ERASE` (42_registry.md R191, R192, R202). -/

namespace Sys2Proof.Machine

/-! ### RLOAD -/

theorem decode_rload (arg : BitVec 80) : decode (.command (0x8#4 ++ arg)) = .ok .rload := by
  rw [decode_command_append]; rfl

theorem exec_rload (s : State) : exec .rload s = .next (s.reload.respond true 0) := rfl

/-- A response leaves the working copy as it was loaded. -/
theorem Loaded.respond {s t : State} (h : Loaded s t) (ok : Bool) (data : BitVec 80) :
    Loaded s (t.respond ok data) :=
  ⟨h.legal, h.corrupt, h.identity, h.switchId, h.paired⟩

/-- Settles O30: `RLOAD` is a load, which gives the working copy of the store's content and makes the 49 reads,
and then one response. -/
theorem rloadReplacesWorkingCopy : Obligations.RloadReplacesWorkingCopy :=
  ⟨decode_rload, fun s => ⟨_, exec_rload s, s.loaded_reload.respond true 0, rfl⟩⟩

/-! ### ERASE -/

theorem decode_erase (arg : BitVec 80) : decode (.command (0xC#4 ++ arg)) = .ok .erase := by
  rw [decode_command_append]; rfl

/-- The state after the 49 zero bytes of an `ERASE`, before its reload. -/
def State.zeroRegion (s : State) : State := s.memWrites (allOffsets.map fun a => (a, 0x00))

@[simp] theorem State.zeroRegion_cfg (s : State) : s.zeroRegion.cfg = s.cfg := s.memWrites_cfg _

theorem State.zeroRegion_eq (s : State) : s.zeroRegion = { s with
    store := s.zeroRegion.store
    storeTrace := s.storeTrace ++ allOffsets.map fun a => ⟨true, a, 0⟩ } := by
  have h := s.memWrites_eq (allOffsets.map fun a => (a, 0x00))
  rwa [List.map_map] at h

theorem State.storeByte_zeroRegion (s : State) (hm : Memory.wf s.store) (a : Offset) :
    s.zeroRegion.storeByte a = 0 :=
  s.storeByte_zeroed hm a

/-- The zero bytes reach no address outside the region (20_memory.md R63). -/
theorem State.read_zeroRegion_of_outside (s : State) {addr : Nat}
    (h : addr < s.cfg.storeBase ∨ s.cfg.storeBase + 48 < addr) :
    s.zeroRegion.store.read addr = s.store.read addr := by
  apply State.read_memWrites_of_ne
  intro w hw
  obtain ⟨a, -, rfl⟩ := List.mem_map.1 hw
  simp only [storeAddress]
  omega

/-- The state that `ERASE` leaves (`exec_erase`). -/
def State.afterErase (s : State) : State := s.zeroRegion.reload.respond true 0

theorem exec_erase (s : State) : exec .erase s = .next s.afterErase := rfl

@[simp] theorem State.afterErase_cfg (s : State) : s.afterErase.cfg = s.cfg := by
  simp [State.afterErase]

/-- The store that an `ERASE` leaves is the one its reload reads. -/
@[simp] theorem State.afterErase_store (s : State) : s.afterErase.store = s.zeroRegion.store := by
  simp [State.afterErase]

theorem State.storeByte_afterErase (s : State) (a : Offset) :
    s.afterErase.storeByte a = s.zeroRegion.storeByte a :=
  State.storeByte_congr s.afterErase_store (by simp) a

/-- An `ERASE`, whole: its reload finds zeros, so the working copy is empty (42_registry.md R202). -/
theorem State.afterErase_eq (s : State) (hm : Memory.wf s.store) : s.afterErase = { s with
    store := s.afterErase.store
    regCount := 0
    regCorrupt := false
    ent := Vector.replicate 6 ⟨#v[0, 0, 0, 0, 0, 0], 0, false⟩
    storeTrace := s.storeTrace ++ allOffsets.map (fun a => ⟨true, a, 0⟩) ++
      allOffsets.map (fun a => ⟨false, a, 0⟩)
    responses := s.responses ++ [⟨true, 0⟩] } := by
  have hzeroed := s.zeroRegion_eq
  rw [State.afterErase_store, ← Entry.empty_eq, State.afterErase,
    State.reload_of_zero _ (s.storeByte_zeroRegion hm)]
  -- `rfl` would otherwise run the 49 writes
  generalize s.zeroRegion = z at hzeroed ⊢
  conv_lhs => rw [hzeroed]
  rfl

/-- Settles O37: the writes leave zeros in the region and touch nothing outside it; the reload then finds an
empty registry and keeps the store. -/
theorem eraseClearsRegistry : Obligations.EraseClearsRegistry := by
  refine ⟨decode_erase, fun s hm =>
    ⟨s.afterErase, exec_erase s, fun a => ?zeros, fun addr hout => ?outside, ?frame⟩⟩
  case zeros => rw [s.storeByte_afterErase, s.storeByte_zeroRegion hm]
  case outside => rw [s.afterErase_store, s.read_zeroRegion_of_outside hout]
  case frame => exact s.afterErase_eq hm

end Sys2Proof.Machine
end

section
/-! PROOFS. `RDCNT` and `RDSTAT` (43_system.md R231, R232). -/

namespace Sys2Proof.Machine

/-! ### RDCNT -/

theorem decode_rdcnt (arg : BitVec 80) :
    decode (.command (0x5#4 ++ arg)) = .ok (.rdcnt (arg.extractLsb' 0 2)) := by
  rw [decode_command_append]; rfl

theorem exec_rdcnt (k : BitVec 2) (s : State) :
    exec (.rdcnt k) s = .next (s.respond true (BitVec.ofNat 80 s.cnt[k.toNat])) := rfl

/-- Settles O25: the two operand bits are the index of the counter read, and the read is one response. -/
theorem rdcntReadsTheCounter : Obligations.RdcntReadsTheCounter :=
  ⟨decode_rdcnt, fun s => ⟨exec_rdcnt 0 s, exec_rdcnt 1 s, exec_rdcnt 2 s, exec_rdcnt 3 s⟩⟩

/-! ### RDSTAT -/

theorem decode_rdstat (arg : BitVec 80) : decode (.command (0x6#4 ++ arg)) = .ok .rdstat := by
  rw [decode_command_append]; rfl

theorem exec_rdstat (s : State) :
    exec .rdstat s = .next (s.respond true (statusData s.regCount s.regCorrupt s.messageReady)) := rfl

section StatusWord

variable (count : BitVec 3) (corrupt ready : Bool)

/-- `data[3:0]` of the status word (30_encoding.md R110). -/
theorem statusData_count : (statusData count corrupt ready).extractLsb' 0 4 = count.zeroExtend 4 := by
  rw [statusData, BitVec.extractLsb'_append_eq_of_add_le (by omega), BitVec.extractLsb'_eq_self]

/-- `data[4]` of the status word (30_encoding.md R110). -/
theorem statusData_corrupt : (statusData count corrupt ready).getLsbD 4 = corrupt := by
  rw [statusData, BitVec.getLsbD_append, BitVec.getLsbD_append]; simp

/-- `data[5]` of the status word (30_encoding.md R110). -/
theorem statusData_ready : (statusData count corrupt ready).getLsbD 5 = ready := by
  rw [statusData, BitVec.getLsbD_append, BitVec.getLsbD_append, BitVec.getLsbD_append]; simp

/-- `data[79:6]` of the status word (30_encoding.md R110). -/
theorem statusData_zeros : (statusData count corrupt ready).extractLsb' 6 74 = 0 := by
  rw [statusData, BitVec.extractLsb'_append_eq_of_le (by omega),
    BitVec.extractLsb'_append_eq_of_le (by omega), BitVec.extractLsb'_append_eq_of_le (by omega)]
  simp

end StatusWord

/-- Settles O26: `RDSTAT` is one response, whose word is read field by field. -/
theorem rdstatReadsTheStatusWord : Obligations.RdstatReadsTheStatusWord :=
  ⟨decode_rdstat, fun s => ⟨_, exec_rdstat s, statusData_count .., statusData_corrupt ..,
    statusData_ready .., statusData_zeros ..⟩⟩

end Sys2Proof.Machine
end

section
/-! PROOFS. The reserved operation codes (43_system.md R234, 30_encoding.md R98). -/

namespace Sys2Proof.Machine

theorem exec_reserved0 (s : State) : exec .reserved0 s = .next (s.respond false 0) := rfl
theorem exec_reserved7 (s : State) : exec .reserved7 s = .next (s.respond false 0) := rfl
theorem exec_reservedD (s : State) : exec .reservedD s = .next (s.respond false 0) := rfl
theorem exec_reservedE (s : State) : exec .reservedE s = .next (s.respond false 0) := rfl
theorem exec_reservedF (s : State) : exec .reservedF s = .next (s.respond false 0) := rfl

/-- Settles O27: the codes are five rows of the table of operation codes, and each operation is one failing
response. -/
theorem reservedCodesAnswerFail : Obligations.ReservedCodesAnswerFail := by
  refine ⟨fun arg => ?codes, fun s => ?answers⟩
  case codes =>
    obtain ⟨code0, -, -, -, -, -, -, code7, -, -, -, codeD, codeE, codeF, -⟩ := commandCodesDecode arg
    exact ⟨code0, code7, codeD, codeE, codeF⟩
  case answers =>
    exact ⟨exec_reserved0 s, exec_reserved7 s, exec_reservedD s, exec_reservedE s, exec_reservedF s⟩

end Sys2Proof.Machine
end

section
/-! PROOFS. `SETUP` (43_system.md R230). -/

namespace Sys2Proof.Machine

theorem decode_setup (arg : BitVec 80) : decode (.command (0x1#4 ++ arg)) = .ok .setup := by
  rw [decode_command_append]; rfl

/-- The state of a `SETUP` before its load: the flag, the decoder, the counters and the learn cleared. -/
def State.setupCleared (s : State) : State :=
  { { s with messageReady := false }.decInit with
    cnt := Vector.replicate 4 0
    learnPending := false }

theorem exec_setup (s : State) : exec .setup s = .next (s.setupCleared.reload.respond true 0) := rfl

/-- The clearing leaves the store's content to the load that follows. -/
@[simp] theorem State.storeByte_setupCleared (s : State) (a : Offset) :
    s.setupCleared.storeByte a = s.storeByte a :=
  State.storeByte_congr rfl rfl a

/-- A load sees nothing of the state it starts from but the bytes of the region. -/
theorem Loaded.of_storeByte_eq {s s' t : State} (h : Loaded s' t)
    (hbytes : ∀ a, s'.storeByte a = s.storeByte a) : Loaded s t := by
  obtain ⟨hlegal, hcorrupt, hidentity, hswitchId, hpaired⟩ := h
  simp only [hbytes] at hlegal hcorrupt hidentity hswitchId hpaired
  exact ⟨hlegal, hcorrupt, hidentity, hswitchId, hpaired⟩

/-- Settles O28: `SETUP` clears, loads and responds; the clearing does not touch the store, so the working copy
is that of the state it began in. -/
theorem setupInitialises : Obligations.SetupInitialises := by
  refine ⟨decode_setup, fun s => ⟨_, exec_setup s, ?loaded, ?frame⟩⟩
  case loaded =>
    exact (s.setupCleared.loaded_reload.respond true 0).of_storeByte_eq s.storeByte_setupCleared
  case frame =>
    rw [← clearedCounters_eq]
    rfl

end Sys2Proof.Machine
end

section
/-! PROOFS. The edges that raise a violation (60_exceptions.md R251 to R256, 41_decoder.md R157, R158). -/

namespace Sys2Proof.Machine

/-- Raising a violation, written out: `bump()` of the category's counter and the five registers of `abort()`
(60_exceptions.md R255, R256). -/
theorem State.raiseViolation_eq (s : State) (v : Violation) : s.raiseViolation v = { s with
    cnt := s.cnt.set v.code ((s.cnt[v.code.val] + 1) % 2 ^ s.cfg.cntWidth)
    packetStarted := false, byteStarted := false, bitCount := 0, byteAccum := 0, bytesCollected := 0 } := rfl

/-- An INVALID edge raises its category in every phase (60_exceptions.md R251 to R253). -/
theorem State.onPulse_of_eq_invalid (s : State) {c : PulseClass} {v : Violation} (hclass : c = .invalid v) :
    s.onPulse c = s.raiseViolation v := by
  rw [hclass, State.onPulse]

/-- A long pulse is a data bit only inside a byte; elsewhere a marker was due (41_decoder.md R157, R158). -/
theorem State.onPulse_longPulse_of_no_byte {s : State} (h : s.packetStarted = false ∨ s.byteStarted = false) :
    s.onPulse .longPulse = s.raiseViolation .noStart := by
  rcases h with hpacket | hbyte
  · simp [State.onPulse, hpacket]
  · simp [State.onPulse, hbyte]

/-- An edge that raises a violation does that and nothing else: no message gets ready, so the learn hook does
not fire. -/
theorem exec_edge_of_violation {s : State} (hready : s.messageReady = false) {d : Nat} {l : Level}
    {v : Violation} (hpulse : s.onPulse (classify s.cfg d l) = s.raiseViolation v) :
    exec (.edge d l) s = .next { s with
      cnt := s.cnt.set v.code ((s.cnt[v.code.val] + 1) % 2 ^ s.cfg.cntWidth)
      packetStarted := false, byteStarted := false, bitCount := 0, byteAccum := 0, bytesCollected := 0 } := by
  rw [exec_edge_of_onPulse hready hpulse hready, State.raiseViolation_eq]

/-- Settles O7: each band, at the level named, is classified INVALID, and an INVALID edge raises its category;
the three effects differ in the counter that the category's code names. -/
theorem timingViolationsAbort : Obligations.TimingViolationsAbort := by
  refine fun s d hready => ⟨fun hshort => ?shortHigh, fun hlong => ?longLow, fun hout l => ?band⟩
  case shortHigh =>
    have hclass : classify s.cfg d .high = .invalid .shortHigh := classify_short_high hshort
    exact ⟨hclass, exec_edge_of_violation hready (s.onPulse_of_eq_invalid hclass)⟩
  case longLow =>
    have hclass : classify s.cfg d .low = .invalid .longLow := classify_long_low hlong
    exact ⟨hclass, exec_edge_of_violation hready (s.onPulse_of_eq_invalid hclass)⟩
  case band =>
    have hclass : classify s.cfg d l = .invalid .band := classify_outOfBand hout l
    exact ⟨hclass, exec_edge_of_violation hready (s.onPulse_of_eq_invalid hclass)⟩

/-- Settles O8: the pulse is classified long, and outside a byte a long pulse raises violation 3. -/
theorem longPulseNeedsByteStart : Obligations.LongPulseNeedsByteStart := by
  intro s d hready hlong hmarker
  have hpulse : s.onPulse (classify s.cfg d .high) = s.raiseViolation .noStart := by
    rw [classify_long_high hlong, State.onPulse_longPulse_of_no_byte hmarker]
  exact exec_edge_of_violation hready hpulse

end Sys2Proof.Machine
end

section
/-! PROOFS. What an operation can do to the state, said once (`Effect`, `exec_effect`), and what a step is
(`step_eq_next`); every statement over all operations or over all steps goes through these two. -/

namespace Sys2Proof.Machine

/-- Everything an operation can do: the state it leaves, by the operation and by what it finds in `s`. -/
inductive Effect (s : State) : Instr → State → Prop
  /-- A command that does nothing but answer. -/
  | answered {i : Instr} (ok : Bool) (data : BitVec 80) (hport : i.port = .command) (hwait : i ≠ .wait)
      (hlearn : ∀ u, i ≠ .learn u) : Effect s i (s.respond ok data)
  | edgeDropped {d : Nat} {l : Level} (hready : s.messageReady = true) : Effect s (.edge d l) s
  | edgeTaken {d : Nat} {l : Level} (hready : s.messageReady = false) :
      Effect s (.edge d l) (s.onPulse (classify s.cfg d l)).learnHook
  | setup : Effect s .setup (s.setupCleared.reload.respond true 0)
  | taken (hready : s.messageReady = true) : Effect s .take s.afterTake
  | waitAnswered (hready : s.messageReady = true) :
      Effect s .wait { s.respond true 0 with consumerWaiting := false }
  | waitHeld (hready : s.messageReady = false) : Effect s .wait { s with consumerWaiting := true }
  | loaded : Effect s .rload (s.reload.respond true 0)
  | added (m : Message) : Effect s (.add m) (s.addMessage m)
  | learned {u : BitVec 16} (hready : s.messageReady = true) : Effect s (.learn u) s.learnFire
  | learnStarted {u : BitVec 16} (hready : s.messageReady = false) :
      Effect s (.learn u) { s with learnPending := true, learnStarts := s.learnStarts ++ [u] }
  | erased : Effect s .erase s.afterErase
  | learnEnded (hpending : s.learnPending = true) :
      Effect s .tmo ({ s with learnPending := false }.respond false 0)
  | tmoIgnored (hpending : s.learnPending = false) : Effect s .tmo s
  | reset : Effect s .rst s.afterRst

/-! ### The operations with two outcomes -/

theorem exec_wait_of_ready {s : State} (h : s.messageReady = true) :
    exec .wait s = .next { s.respond true 0 with consumerWaiting := false } := if_pos h

theorem exec_wait_of_not_ready {s : State} (h : s.messageReady = false) :
    exec .wait s = .next { s with consumerWaiting := true } := if_neg (by simp [h])

theorem exec_learn_of_ready {s : State} (h : s.messageReady = true) (u : BitVec 16) :
    exec (.learn u) s = .next s.learnFire := if_pos h

theorem exec_learn_of_not_ready {s : State} (h : s.messageReady = false) (u : BitVec 16) :
    exec (.learn u) s = .next { s with learnPending := true, learnStarts := s.learnStarts ++ [u] } :=
  if_neg (by simp [h])

theorem exec_tmo_of_pending {s : State} (h : s.learnPending = true) :
    exec .tmo s = .next ({ s with learnPending := false }.respond false 0) := if_pos h

theorem exec_tmo_of_not_pending {s : State} (h : s.learnPending = false) : exec .tmo s = .next s :=
  if_neg (by simp [h])

/-- A lookup answers and does nothing else, found or not (42_registry.md R193, R194). -/
theorem exec_lookup (m : Message) (s : State) :
    ∃ ok data, exec (.lookup m) s = .next (s.respond ok data) := by
  cases h : s.lookupIndex m with
  | some i => exact ⟨_, _, exec_lookup_of_some h⟩
  | none => exact ⟨_, _, exec_lookup_of_none h⟩

/-! ### Every operation -/

/-- Every operation answers a next state, and it is one that `Effect` lists. -/
theorem exec_effect (i : Instr) (s : State) : ∃ t, exec i s = .next t ∧ Effect s i t := by
  have answer : ∀ {i : Instr} {ok : Bool} {data : BitVec 80}, exec i s = .next (s.respond ok data) →
      i.port = .command → i ≠ .wait → (∀ u, i ≠ .learn u) → ∃ t, exec i s = .next t ∧ Effect s i t :=
    fun h hport hwait hlearn => ⟨_, h, .answered _ _ hport hwait hlearn⟩
  cases i with
  | edge d l =>
    cases h : s.messageReady with
    | true => exact ⟨_, exec_edge_of_ready h d l, .edgeDropped h⟩
    | false => exact ⟨_, exec_edge_of_not_ready h d l, .edgeTaken h⟩
  | setup => exact ⟨_, exec_setup s, .setup⟩
  | poll => exact answer (exec_poll s) rfl nofun nofun
  | take =>
    cases h : s.messageReady with
    | true => exact ⟨_, exec_take_of_ready h, .taken h⟩
    | false => exact answer (exec_take_of_not_ready h) rfl nofun nofun
  | wait =>
    cases h : s.messageReady with
    | true => exact ⟨_, exec_wait_of_ready h, .waitAnswered h⟩
    | false => exact ⟨_, exec_wait_of_not_ready h, .waitHeld h⟩
  | rdcnt k => exact answer (exec_rdcnt k s) rfl nofun nofun
  | rdstat => exact answer (exec_rdstat s) rfl nofun nofun
  | rload => exact ⟨_, exec_rload s, .loaded⟩
  | lookup m =>
    obtain ⟨ok, data, h⟩ := exec_lookup m s
    exact answer h rfl nofun nofun
  | add m => exact ⟨_, exec_add s m, .added m⟩
  | learn u =>
    cases h : s.messageReady with
    | true => exact ⟨_, exec_learn_of_ready h u, .learned h⟩
    | false => exact ⟨_, exec_learn_of_not_ready h u, .learnStarted h⟩
  | erase => exact ⟨_, exec_erase s, .erased⟩
  | tmo =>
    cases h : s.learnPending with
    | true => exact ⟨_, exec_tmo_of_pending h, .learnEnded h⟩
    | false => exact ⟨_, exec_tmo_of_not_pending h, .tmoIgnored h⟩
  | rst => exact ⟨_, exec_rst s, .reset⟩
  | reserved0 => exact answer (exec_reserved0 s) rfl nofun nofun
  | reserved7 => exact answer (exec_reserved7 s) rfl nofun nofun
  | reservedD => exact answer (exec_reservedD s) rfl nofun nofun
  | reservedE => exact answer (exec_reservedE s) rfl nofun nofun
  | reservedF => exact answer (exec_reservedF s) rfl nofun nofun

theorem Effect.of_exec {s t : State} {i : Instr} (h : exec i s = .next t) : Effect s i t := by
  obtain ⟨u, hu, he⟩ := exec_effect i s
  rw [h] at hu
  cases hu
  exact he

/-! ### Every step -/

/-- Everything a step can be: words taken from the ports and nothing else, or an operation on the state without
them, which is an `RST` only where the step resets. -/
theorem step_eq_next {s t : State} (h : step s = .next t) :
    (∃ L, t = { s with inputs := L }) ∨
    ∃ i L, Effect { s with inputs := L } i t ∧ (i = .rst → StepResets s) := by
  rcases step_cases s with ⟨-, hs⟩ | ⟨-, -, hs⟩ | ⟨p, u, i, hw, hf, hd, hs⟩ | ⟨p, u, e, -, hf, -, hs⟩
  · exact .inr ⟨.wait, s.inputs, .of_exec (hs ▸ h), nofun⟩
  · rw [hs] at h; cases h
    exact .inl ⟨s.inputs, rfl⟩
  · obtain ⟨left, -, hu⟩ := s.fetch_eq_some hf
    refine .inr ⟨i, left, .of_exec (hu ▸ hs ▸ h), ?_⟩
    rintro rfl
    exact ⟨hw, p, u, hf, hd⟩
  · obtain ⟨left, -, rfl⟩ := s.fetch_eq_some hf
    rw [hs] at h; cases h
    exact .inl ⟨left, rfl⟩

/-- What every operation keeps, and what does not speak of the words at the ports, every step keeps. -/
theorem step_keeps {P : State → Prop}
    (hinputs : ∀ {s : State} (L : List PortWord), P s → P { s with inputs := L })
    (hop : ∀ {s t : State} {i : Instr}, P s → Effect s i t → P t)
    {s t : State} (hs : P s) (h : step s = .next t) : P t := by
  rcases step_eq_next h with ⟨L, rfl⟩ | ⟨i, L, he, -⟩
  · exact hinputs L hs
  · exact hop (hinputs L hs) he

/-- Settles O43: the operations by `exec_effect`; a step is an operation, or it leaves the state it fetched
from. -/
theorem machineNeverStops : Obligations.MachineNeverStops := by
  have hexec : ∀ (i : Instr) (s : State), ∃ t, exec i s = .next t := fun i s =>
    (exec_effect i s).imp fun _ h => h.1
  refine ⟨hexec, fun s => ?_⟩
  rcases step_cases s with ⟨-, h⟩ | ⟨-, -, h⟩ | ⟨_, _, _, -, -, -, h⟩ | ⟨_, _, _, -, -, -, h⟩
  · rw [h]; exact hexec _ _
  · exact ⟨_, h⟩
  · rw [h]; exact hexec _ _
  · exact ⟨_, h⟩

end Sys2Proof.Machine
end

section
/-! PROOFS. The invariants of the decoder registers (10_state.md section 2). -/

namespace Sys2Proof.Machine

/-! ### Which operations leave the decoder alone, and which clear it -/

@[simp] theorem State.setupCleared_cfg (s : State) : s.setupCleared.cfg = s.cfg := rfl
@[simp] theorem State.afterRst_cfg (s : State) : s.afterRst.cfg = s.cfg := rfl
@[simp] theorem State.afterTake_cfg (s : State) : s.afterTake.cfg = s.cfg := rfl

section

variable (s : State)

@[simp] theorem State.afterErase_packetStarted : s.afterErase.packetStarted = s.packetStarted := by
  simp [State.afterErase, State.zeroRegion]
@[simp] theorem State.afterErase_byteStarted : s.afterErase.byteStarted = s.byteStarted := by
  simp [State.afterErase, State.zeroRegion]
@[simp] theorem State.afterErase_bitCount : s.afterErase.bitCount = s.bitCount := by
  simp [State.afterErase, State.zeroRegion]
@[simp] theorem State.afterErase_byteAccum : s.afterErase.byteAccum = s.byteAccum := by
  simp [State.afterErase, State.zeroRegion]
@[simp] theorem State.afterErase_bytesCollected : s.afterErase.bytesCollected = s.bytesCollected := by
  simp [State.afterErase, State.zeroRegion]
@[simp] theorem State.afterErase_buf : s.afterErase.buf = s.buf := by
  simp [State.afterErase, State.zeroRegion]
@[simp] theorem State.afterErase_messageReady : s.afterErase.messageReady = s.messageReady := by
  simp [State.afterErase, State.zeroRegion]
@[simp] theorem State.afterErase_cnt : s.afterErase.cnt = s.cnt := by
  simp [State.afterErase, State.zeroRegion]
@[simp] theorem State.afterErase_learnPending : s.afterErase.learnPending = s.learnPending := by
  simp [State.afterErase, State.zeroRegion]
@[simp] theorem State.afterErase_consumerWaiting : s.afterErase.consumerWaiting = s.consumerWaiting := by
  simp [State.afterErase, State.zeroRegion]
@[simp] theorem State.afterErase_responses : s.afterErase.responses = s.responses ++ [⟨true, 0⟩] := by
  simp [State.afterErase, State.zeroRegion]

end

/-- The decoder's registers and its buffer stand in `t` as in `s`. -/
structure SameDecoder (s t : State) : Prop where
  packetStarted : t.packetStarted = s.packetStarted
  byteStarted : t.byteStarted = s.byteStarted
  bitCount : t.bitCount = s.bitCount
  byteAccum : t.byteAccum = s.byteAccum
  bytesCollected : t.bytesCollected = s.bytesCollected
  messageReady : t.messageReady = s.messageReady
  buf : t.buf = s.buf

/-- Phase `IDLE` with the registers as `dec_init()` leaves them (41_decoder.md R168). -/
structure Cleared (t : State) : Prop where
  packetStarted : t.packetStarted = false
  byteStarted : t.byteStarted = false
  bitCount : t.bitCount = 0
  byteAccum : t.byteAccum = 0
  bytesCollected : t.bytesCollected = 0
  messageReady : t.messageReady = false

theorem Cleared.learnFire (s : State) : Cleared s.learnFire := by constructor <;> simp

theorem Cleared.abort {s : State} (h : s.messageReady = false) : Cleared s.abort :=
  ⟨rfl, rfl, rfl, rfl, rfl, h⟩

theorem Cleared.raiseViolation {s : State} (h : s.messageReady = false) (v : Violation) :
    Cleared (s.raiseViolation v) :=
  ⟨rfl, rfl, rfl, rfl, rfl, h⟩

theorem SameDecoder.addMessage (s : State) (m : Message) : SameDecoder s (s.addMessage m) := by
  constructor <;> simp

theorem SameDecoder.afterErase (s : State) : SameDecoder s s.afterErase := by
  constructor <;> simp

/-- An operation other than a taken edge leaves the decoder as it is, or clears it. -/
theorem Effect.decoder {s t : State} {i : Instr} (h : Effect s i t) :
    SameDecoder s t ∨ Cleared t ∨
      s.messageReady = false ∧ ∃ d l, t = (s.onPulse (classify s.cfg d l)).learnHook := by
  cases h with
  | edgeTaken hready => exact .inr (.inr ⟨hready, _, _, rfl⟩)
  | setup => exact .inr (.inl ⟨rfl, rfl, rfl, rfl, rfl, rfl⟩)
  | taken => exact .inr (.inl ⟨rfl, rfl, rfl, rfl, rfl, rfl⟩)
  | added m => exact .inl (.addMessage s m)
  | learned => exact .inr (.inl (.learnFire s))
  | erased => exact .inl (.afterErase s)
  | reset => exact .inr (.inl ⟨rfl, rfl, rfl, rfl, rfl, rfl⟩)
  | _ => exact .inl ⟨rfl, rfl, rfl, rfl, rfl, rfl, rfl⟩

/-! ### R30 (a) to (f) -/

theorem DecoderInv.of_same {s t : State} (hs : DecoderInv s) (h : SameDecoder s t) : DecoderInv t := by
  obtain ⟨hps, hbs, hbc, hacc, hnb, hrdy, -⟩ := h
  obtain ⟨hbits, hbytes, hready, hnoPacket, hidle, hinByte, hinPacket⟩ := hs
  constructor <;> simp only [hps, hbs, hbc, hacc, hnb, hrdy] <;> assumption

theorem DecoderInv.of_cleared {t : State} (h : Cleared t) : DecoderInv t := by
  obtain ⟨hps, hbs, hbc, hacc, hnb, hrdy⟩ := h
  constructor <;> simp [hps, hbs, hbc, hacc, hnb, hrdy]

theorem DecoderInv.learnHook {s : State} (hs : DecoderInv s) : DecoderInv s.learnHook := by
  rcases s.learnHook_cases with ⟨-, -, h⟩ | ⟨-, h⟩
  · rw [h]; exact .of_cleared (.learnFire s)
  · rw [h]; exact hs

/-- The four-bit counters do not wrap within their ranges (10_state.md R30 (a), (b)). -/
theorem toNat_add_one {x : BitVec 4} (h : x.toNat < 15) : (x + 1).toNat = x.toNat + 1 := by
  have : (x + 1).toNat = (x.toNat + 1) % 16 := x.toNat_add 1
  omega

theorem toNat_add_one_ne {x y : BitVec 4} (h : x.toNat < 15) (hne : x + 1 ≠ y) : x.toNat + 1 ≠ y.toNat :=
  fun e => hne (BitVec.eq_of_toNat_eq ((toNat_add_one h).trans e))

/-- A finished byte, from a state as `shift_in()` leaves it: at most nine bytes collected, the byte ended. -/
theorem DecoderInv.completeByte {s : State} (hps : s.packetStarted = true) (hbs : s.byteStarted = false)
    (hbc : s.bitCount.toNat ≤ 8) (hnb : s.bytesCollected.toNat ≤ 9) (hready : s.messageReady = false) :
    DecoderInv s.completeByte := by
  have hnext : (s.bytesCollected + 1).toNat = s.bytesCollected.toNat + 1 := toNat_add_one (by omega)
  have hnoByte : s.byteStarted ≠ true := by simp [hbs]
  rcases s.completeByte_cases with ⟨-, -, -, -, -, h⟩ | ⟨-, -, -, -, h⟩ | ⟨-, h10, h⟩ | ⟨-, h10, h⟩ <;> rw [h]
  · constructor <;> simp [hps, hready]
  · exact .of_cleared (.abort hready)
  · exact ⟨hbc, hnext.trans_le (by omega), fun _ => ⟨rfl, hbs, h10⟩, fun _ => hbs, nofun,
      fun h => absurd h hnoByte, nofun⟩
  · have hlt : s.bytesCollected.toNat + 1 ≠ 10 := toNat_add_one_ne (by omega) h10
    exact ⟨hbc, hnext.trans_le (by omega), fun h => absurd h (by simp [hready]), fun _ => hbs,
      fun h => absurd h (by simp [hps]), fun h => absurd h hnoByte, fun _ => hnext.trans_le (by omega)⟩

theorem DecoderInv.shiftIn {s : State} (hs : DecoderInv s) (hready : s.messageReady = false)
    (hps : s.packetStarted = true) (hbs : s.byteStarted = true) (b : Bool) : DecoderInv (s.shiftIn b) := by
  have hbits := hs.inByte hbs
  have hbytes := hs.inPacket hps
  have hnext : (s.bitCount + 1).toNat = s.bitCount.toNat + 1 := toNat_add_one (by omega)
  by_cases h8 : s.bitCount + 1 = 8
  · rw [s.shiftIn_of_eq b h8]
    exact .completeByte hps rfl (hnext.trans_le (by omega)) hbytes hready
  · rw [s.shiftIn_of_ne b h8]
    have hlt : s.bitCount.toNat + 1 ≠ 8 := toNat_add_one_ne (by omega) h8
    exact ⟨hnext.trans_le (by omega), hs.bytesCollected_le, fun h => absurd h (by simp [hready]),
      fun h => absurd h (by simp [hps]), fun h => absurd h (by simp [hps]),
      fun _ => hnext.trans_le (by omega), fun _ => hbytes⟩

theorem DecoderInv.onPulse {s : State} (hs : DecoderInv s) (hready : s.messageReady = false) (c : PulseClass) :
    DecoderInv (s.onPulse c) := by
  rcases s.onPulse_cases c with ⟨-, h⟩ | ⟨v, -, h⟩ | ⟨-, -, h⟩ | ⟨-, hps, -, h⟩ | ⟨b, -, hps, hbs, h⟩ <;> rw [h]
  · exact hs
  · exact .of_cleared (.raiseViolation hready v)
  · constructor <;> simp [hready]
  · have := hs.inPacket hps
    constructor <;> simp [hps, hready] <;> omega
  · exact hs.shiftIn hready hps hbs b

theorem DecoderInv.effect {s t : State} {i : Instr} (hs : DecoderInv s) (h : Effect s i t) : DecoderInv t := by
  rcases h.decoder with h | h | ⟨hready, d, l, rfl⟩
  · exact hs.of_same h
  · exact .of_cleared h
  · exact (hs.onPulse hready _).learnHook

/-- Settles O46: of the operations only a taken edge sets decoder registers to anything but their cleared
values, and each action on a classified edge keeps the invariants. -/
theorem stepKeepsDecoderInv : Obligations.StepKeepsDecoderInv :=
  fun _ _ hs => step_keeps (fun _ hs => hs.of_same ⟨rfl, rfl, rfl, rfl, rfl, rfl, rfl⟩) DecoderInv.effect hs

/-! ### R30 (g) -/

theorem SentinelKept.of_same {s t : State} (hs : SentinelKept s) (h : SameDecoder s t) (hc : t.cfg = s.cfg) :
    SentinelKept t := by
  unfold SentinelKept at hs ⊢
  rwa [hc, h.bytesCollected, h.buf]

/-- With no byte collected there is nothing to keep. -/
theorem SentinelKept.of_none {t : State} (h : t.bytesCollected = 0) : SentinelKept t :=
  fun _ h0 => absurd h h0

theorem SentinelKept.learnHook {s : State} (hs : SentinelKept s) : SentinelKept s.learnHook := by
  rcases s.learnHook_cases with ⟨-, -, h⟩ | ⟨-, h⟩
  · rw [h]; exact .of_none s.learnFire_bytesCollected
  · rw [h]; exact hs

/-- Byte 0 is stored only if it passes the check, and a later byte is stored behind it. -/
theorem SentinelKept.storeFinishedByte {s : State} (hs : SentinelKept s)
    (hpass : ¬(s.bytesCollected = 0 ∧ s.cfg.sentinelMode ≠ .off ∧ s.byteAccum ≠ s.cfg.sentinel)) :
    SentinelKept s.storeFinishedByte := by
  intro hmode _
  simp only [State.storeFinishedByte_buf, State.storeFinishedByte_cfg, Vector.getElem_setIfInBounds] at hmode ⊢
  split
  · next h0 => exact not_not.1 fun hne => hpass ⟨BitVec.eq_of_toNat_eq h0, hmode, hne⟩
  · next h0 => exact hs hmode fun h => h0 (by rw [h]; rfl)

theorem SentinelKept.completeByte {s : State} (hs : SentinelKept s) : SentinelKept s.completeByte := by
  rcases s.completeByte_cases with ⟨-, -, -, -, -, h⟩ | ⟨-, -, -, -, h⟩ | ⟨hpass, -, h⟩ | ⟨hpass, -, h⟩ <;> rw [h]
  · intro _ _; simp
  · exact .of_none rfl
  · exact hs.storeFinishedByte hpass
  · exact hs.storeFinishedByte hpass

theorem SentinelKept.onPulse {s : State} (hs : SentinelKept s) (c : PulseClass) : SentinelKept (s.onPulse c) := by
  rcases s.onPulse_cases c with ⟨-, h⟩ | ⟨v, -, h⟩ | ⟨-, -, h⟩ | ⟨-, -, -, h⟩ | ⟨b, -, -, -, h⟩ <;> rw [h]
  · exact hs
  · exact .of_none rfl
  · exact .of_none rfl
  · exact hs
  · by_cases h8 : s.bitCount + 1 = 8
    · rw [s.shiftIn_of_eq b h8]
      exact SentinelKept.completeByte (s := { s.shiftBit b with byteStarted := false }) hs
    · rw [s.shiftIn_of_ne b h8]; exact hs

/-- No operation writes the configuration. -/
theorem Effect.cfg {s t : State} {i : Instr} (h : Effect s i t) : t.cfg = s.cfg := by
  cases h with
  | edgeTaken =>
    rcases (s.onPulse (classify s.cfg _ _)).learnHook_cases with ⟨-, -, h⟩ | ⟨-, h⟩ <;> rw [h] <;> simp
  | _ => simp

theorem SentinelKept.effect {s t : State} {i : Instr} (hs : SentinelKept s) (h : Effect s i t) :
    SentinelKept t := by
  rcases h.decoder with hsame | hclear | ⟨-, d, l, rfl⟩
  · exact hs.of_same hsame h.cfg
  · exact .of_none hclear.bytesCollected
  · exact (hs.onPulse _).learnHook

/-- Settles O47: the first byte is stored only past the check or as the sentinel itself, and nothing but a
taken edge touches the buffer of a packet. -/
theorem stepKeepsSentinel : Obligations.StepKeepsSentinel :=
  fun _ _ _ hs => step_keeps (fun _ hs => hs) SentinelKept.effect hs

/-- Settles O45: a step is an operation or a fetch, and neither writes the configuration. -/
theorem configurationNeverWritten : Obligations.ConfigurationNeverWritten := by
  intro s t h
  rcases step_eq_next h with ⟨L, rfl⟩ | ⟨i, L, he, -⟩
  · rfl
  · exact he.cfg

/-! ### Counters, the registry's count and a pending learn -/

theorem counterNext_lt (cfg : Config) (c : Nat) : counterNext cfg c < 2 ^ cfg.cntWidth :=
  Nat.mod_lt _ (Nat.two_pow_pos _)

/-- Either no counter changes, or one is incremented and the decoder is back in `IDLE` (60_exceptions.md
R260). -/
theorem State.onPulse_cnt_cases (s : State) (c : PulseClass) :
    (s.onPulse c).cnt = s.cnt ∨ ∃ v, s.onPulse c = s.raiseViolation v := by
  rcases s.onPulse_cases c with ⟨-, h⟩ | ⟨v, -, h⟩ | ⟨-, -, h⟩ | ⟨-, -, -, h⟩ | ⟨b, -, -, -, h⟩
  · exact .inl (by rw [h])
  · exact .inr ⟨v, h⟩
  · exact .inl (by rw [h, State.startPacket_cnt])
  · exact .inl (by rw [h, State.startByte_cnt])
  · exact .inl (by rw [h, State.shiftIn_cnt])

@[simp] theorem State.learnHook_cnt (s : State) : s.learnHook.cnt = s.cnt := by
  rcases s.learnHook_cases with ⟨-, -, h⟩ | ⟨-, h⟩ <;> rw [h]
  simp

/-- The counters of `t` are within their width. -/
def CountersInRange (t : State) : Prop := ∀ k : CounterIndex, t.cnt[k.val] < 2 ^ t.cfg.cntWidth

theorem CountersInRange.of_eq {s t : State} (hs : CountersInRange s) (h : t.cnt = s.cnt) (hc : t.cfg = s.cfg) :
    CountersInRange t := by
  unfold CountersInRange at hs ⊢
  rwa [h, hc]

theorem CountersInRange.of_zero {t : State} (h : t.cnt = Vector.replicate 4 0) : CountersInRange t := by
  intro k
  simp [h]

theorem CountersInRange.raiseViolation {s : State} (hs : CountersInRange s) (v : Violation) :
    CountersInRange (s.raiseViolation v) := by
  intro k
  rw [State.raiseViolation_cnt, Vector.getElem_set]
  split
  · exact counterNext_lt _ _
  · exact hs k

theorem CountersInRange.effect {s t : State} {i : Instr} (hs : CountersInRange s) (h : Effect s i t) :
    CountersInRange t := by
  have hcfg := h.cfg
  cases h with
  | edgeTaken =>
    rcases s.onPulse_cnt_cases (classify s.cfg _ _) with hcnt | ⟨v, hv⟩
    · exact hs.of_eq (by rw [State.learnHook_cnt, hcnt]) hcfg
    · exact (hs.raiseViolation v).of_eq (by rw [State.learnHook_cnt, hv]) hcfg
  | setup => exact .of_zero rfl
  | reset => exact .of_zero rfl
  | erased => exact hs.of_eq (by simp) hcfg
  | learned => exact hs.of_eq (by simp) hcfg
  | added => exact hs.of_eq (by simp) hcfg
  | _ => exact hs.of_eq rfl hcfg

theorem State.regCount_addMessage_le {s : State} (h : s.regCount.toNat ≤ 6) (m : Message) :
    (s.addMessage m).regCount.toNat ≤ 6 := by
  rcases s.addMessage_cases m with ⟨i, -, hi⟩ | ⟨-, hi⟩ <;> rw [hi]
  · simp only [State.respond_regCount, State.appendAt_regCount, BitVec.toNat_ofNat]
    omega
  · exact h

theorem State.regCount_learnFire_le {s : State} (h : s.regCount.toNat ≤ 6) : s.learnFire.regCount.toNat ≤ 6 := by
  rw [State.learnFire_eq]
  apply State.regCount_addMessage_le
  exact h

theorem Effect.regCount_le {s t : State} {i : Instr} (hs : s.regCount.toNat ≤ 6) (h : Effect s i t) :
    t.regCount.toNat ≤ 6 := by
  cases h with
  | edgeTaken =>
    rcases (s.onPulse (classify s.cfg _ _)).learnHook_cases with ⟨-, -, h⟩ | ⟨-, h⟩ <;> rw [h]
    · exact State.regCount_learnFire_le (by simpa using hs)
    · simpa using hs
  | setup => simpa using s.setupCleared.storedCount_le
  | loaded => simpa using s.storedCount_le
  | erased => simpa [State.afterErase] using s.zeroRegion.storedCount_le
  | added m => exact State.regCount_addMessage_le hs m
  | learned => exact State.regCount_learnFire_le hs
  | reset => exact Nat.zero_le 6
  | _ => exact hs

/-- A learn that stays pending finds no message ready: the hook fires where one is (41_decoder.md R165). -/
theorem Effect.learn {s t : State} {i : Instr} (hs : s.learnPending = true → s.messageReady = false)
    (h : Effect s i t) : t.learnPending = true → t.messageReady = false := by
  cases h with
  | edgeTaken =>
    rcases (s.onPulse (classify s.cfg _ _)).learnHook_cases with ⟨-, -, h⟩ | ⟨hn, h⟩ <;> rw [h]
    · simp
    · intro hp
      exact hn.resolve_left (by rw [hp]; decide)
  | setup => exact nofun
  | taken => exact fun _ => rfl
  | added => simpa using hs
  | learned => simp
  | learnStarted hready => exact fun _ => hready
  | erased => simpa using hs
  | learnEnded => exact nofun
  | reset => exact nofun
  | _ => exact hs

theorem RangeInv.effect {s t : State} {i : Instr} (hs : RangeInv s) (h : Effect s i t) : RangeInv t :=
  ⟨CountersInRange.effect hs.counter_lt h, h.regCount_le hs.regCount_le, h.learn hs.learn⟩

/-- Settles O48: counters move only modulo their width, the count grows only below the capacity or is loaded
clamped, and a learn that meets a ready message fires. -/
theorem stepKeepsRanges : Obligations.StepKeepsRanges :=
  fun _ _ hs => step_keeps (fun _ ⟨hcnt, hcount, hlearn⟩ => ⟨hcnt, hcount, hlearn⟩) RangeInv.effect hs

/-- Settles O19: an action that counts is a violation, whose abort leads to `IDLE` before the learn hook, which
then does nothing. -/
theorem edgeCountsAtMostOnce : Obligations.EdgeCountsAtMostOnce := by
  intro s t d l h
  cases Effect.of_exec h with
  | answered _ _ hport => cases hport
  | edgeDropped => exact .inl rfl
  | edgeTaken hready =>
    rcases s.onPulse_cnt_cases (classify s.cfg d l) with hcnt | ⟨v, hv⟩
    · exact .inl (by rw [State.learnHook_cnt, hcnt])
    · have hr : (s.raiseViolation v).messageReady = false := hready
      rw [hv, State.learnHook_of_not_ready hr]
      exact .inr ⟨v.code, rfl, State.phase_eq_idle.2 ⟨hr, rfl⟩⟩

/-- Settles O50: every register of `State.reset` is written out in its definition. -/
theorem invariantsHoldAtReset : Obligations.InvariantsHoldAtReset := by
  have hclear : Cleared State.reset := ⟨rfl, rfl, rfl, rfl, rfl, rfl⟩
  refine ⟨.of_cleared hclear, .of_none rfl, ⟨CountersInRange.of_zero rfl, Nat.zero_le 6, nofun⟩,
    Memory.wf_nil, by decide⟩

end Sys2Proof.Machine
end

section
/-! PROOFS. Encoding and decoding agree (30_encoding.md sections 1 to 3), and the width of a duration is not
seen (00_scope.md section 4). -/

namespace Sys2Proof

/-! ### Operands -/

theorem levelOfBit_bitOfLevel (l : Level) : levelOfBit (bitOfLevel l) = l := by
  cases l <;> rfl

/-- An operand narrower than `arg` is read back from its low bits. -/
theorem extractLsb'_zeroExtend {n : Nat} (h : n ≤ 80) (x : BitVec n) :
    (x.zeroExtend 80).extractLsb' 0 n = x := by
  ext i hi
  simp only [BitVec.getElem_extractLsb', BitVec.zeroExtend, BitVec.getLsbD_setWidth]
  rw [Nat.zero_add, BitVec.getLsbD_eq_getElem hi]
  simp
  omega

/-- The ten bytes of a message stand in its 80 bits, the first one on top (00_scope.md R14). -/
theorem messageOfBits_messageBits (m : Message) : messageOfBits (messageBits m) = m := by
  ext1 i hi
  have hbyte := getElem_messageOfBits (messageBits m) ⟨i, hi⟩
  rw [hbyte, messageBits]
  interval_cases i <;>
    simp (disch := omega) only [BitVec.extractLsb'_append_eq_of_le, BitVec.extractLsb'_append_eq_of_add_le] <;>
    simp

/-! ### Words -/

theorem decode_commandWord (op : BitVec 4) (arg : BitVec 80) :
    decode (.command (commandWord op arg)) = decodeOp op arg :=
  decode_command_append op arg

/-- The operands of an edge word are the duration as its field holds it, and the level. -/
theorem decode_edgeWord (d : Nat) (l : Level) :
    decode (.edge (edgeWord d l)) = .ok (.edge (edgeField d) l) := by
  have hfield : edgeField d < 2 ^ 16 := Nat.lt_of_le_of_lt (Nat.min_le_right _ _) (by decide)
  rw [decode_edge, extractLsb'_edgeWord, getLsbD_edgeWord, levelOfBit_bitOfLevel, BitVec.toNat_ofNat,
    Nat.mod_eq_of_lt hfield]

theorem decode_learn (arg : BitVec 80) :
    decode (.command (0xB#4 ++ arg)) = .ok (.learn (arg.extractLsb' 0 16)) := by
  rw [decode_command_append]; rfl

theorem decode_lookup (arg : BitVec 80) :
    decode (.command (0x9#4 ++ arg)) = .ok (.lookup (messageOfBits arg)) := by
  rw [decode_command_append]; rfl

theorem decode_add (arg : BitVec 80) : decode (.command (0xA#4 ++ arg)) = .ok (.add (messageOfBits arg)) := by
  rw [decode_command_append]; rfl

/-- Settles O1: an edge word is read field by field; a command word is its code, which names the row of the
table, and its operand, which is read back from the bits it was put in. -/
theorem decodeOfEncode : Obligations.DecodeOfEncode := by
  intro i hwf
  cases i with
  | edge d l => rw [encode_edge, decode_edgeWord, edgeField_of_lt (wf_edge.1 hwf)]
  | rdcnt k => exact (Machine.decode_rdcnt _).trans (by rw [extractLsb'_zeroExtend (by omega)])
  | learn t => exact (decode_learn _).trans (by rw [extractLsb'_zeroExtend (by omega)])
  | lookup m => exact (decode_lookup _).trans (by rw [messageOfBits_messageBits])
  | add m => exact (decode_add _).trans (by rw [messageOfBits_messageBits])
  | tmo => rfl
  | rst => rfl
  | _ => exact (decode_commandWord _ _).trans rfl

/-- Settles O4: five closed words, decoded. -/
theorem specTraceWordsDecode : Obligations.SpecTraceWordsDecode :=
  ⟨by decide, by decide, by decide, by decide, by decide⟩

end Sys2Proof

namespace Sys2Proof.Machine

/-! ### The width of a duration -/

/-- The classifier does not tell durations from `LONG_LIM` on apart, so one cut at such a value acts the
same. -/
theorem classify_min {cfg : Config} (hwf : cfg.wf) {c : Nat} (hc : cfg.longLim ≤ c) (d : Nat) (l : Level) :
    classify cfg (min d c) l = classify cfg d l := by
  rcases Nat.le_total d c with h | h
  · rw [Nat.min_eq_left h]
  · rw [Nat.min_eq_right h, classify_outOfBand ⟨hwf, .inr hc⟩,
      classify_outOfBand ⟨hwf, .inr (hc.trans h)⟩]

/-- An edge reads its duration through the classifier alone. -/
theorem exec_edge_congr {s : State} {d d' : Nat} {l : Level}
    (h : classify s.cfg d l = classify s.cfg d' l) : exec (.edge d l) s = exec (.edge d' l) s := by
  simp only [exec, execEdge, h]

/-- Settles O60: what is presented is the duration cut at the largest values of `DUR_W` bits and of the field,
and neither cut is below `LONG_LIM`. -/
theorem durationWidthUnseen : Obligations.DurationWidthUnseen := by
  intro s ticks l hwf hdur hfield
  have hcut : edgeField (presentedDuration s.cfg ticks) ≤ 2 ^ s.cfg.durWidth - 1 :=
    (Nat.min_le_left _ _).trans (Nat.min_le_right _ _)
  refine ⟨edgeField (presentedDuration s.cfg ticks), by omega, decode_edgeWord _ _, exec_edge_congr ?_⟩
  calc classify s.cfg (edgeField (presentedDuration s.cfg ticks)) l
      = classify s.cfg (presentedDuration s.cfg ticks) l := classify_min hwf (Nat.le_sub_one_of_lt hfield) _ _
    _ = classify s.cfg ticks l := classify_min hwf (Nat.le_sub_one_of_lt hdur) _ _

end Sys2Proof.Machine
end

section
/-! PROOFS. Which port word has the next step, and the events of one moment (00_scope.md section 5,
60_exceptions.md R261). -/

namespace Sys2Proof.Machine

/-! ### The word standing first -/

theorem canPresent_eq_true {free : Bool} {p : PortWord} :
    canPresent free p = true ↔ (p.port = .command → free = true) := by
  cases p <;> simp [canPresent, PortWord.port]

theorem canPresent_eq_false {free : Bool} {p : PortWord} :
    canPresent free p = false ↔ p.port = .command ∧ free = false := by
  cases p <;> simp [canPresent, PortWord.port]

theorem State.fetch_cons {s : State} {p : PortWord} {rest : List PortWord} (hin : s.inputs = p :: rest)
    (hp : p.port = .command → s.consumerFree = true) : s.fetch = some (p, { s with inputs := rest }) := by
  simp [State.fetch, hin, nextPresented, canPresent_eq_true.2 hp]

theorem step_of_fetch {s t : State} {p : PortWord} (hw : s.heldWaitReady = false)
    (hf : s.fetch = some (p, t)) {i : Instr} (hd : decode p = .ok i) : step s = exec i t := by
  simp [step, hw, hf, hd]

theorem step_of_fetch_error {s t : State} {p : PortWord} (hw : s.heldWaitReady = false)
    (hf : s.fetch = some (p, t)) {e : DecodeError} (hd : decode p = .error e) : step s = .next t := by
  simp [step, hw, hf, hd]

theorem step_of_fetch_none {s : State} (hw : s.heldWaitReady = false) (hf : s.fetch = none) :
    step s = .next s := by
  simp [step, hw, hf]

theorem State.heldWaitReady_of_not_waiting {s : State} (h : s.consumerWaiting = false) :
    s.heldWaitReady = false := by
  simp [State.heldWaitReady, h]

theorem State.consumerFree_of {s : State} (hw : s.consumerWaiting = false) (hl : s.learnPending = false) :
    s.consumerFree = true := by
  simp [State.consumerFree, hw, hl]

/-- Settles O38: the word standing first is fetched, and the step runs what it decodes to. -/
theorem stepRunsTheDecodedOperation : Obligations.StepRunsTheDecodedOperation :=
  fun _ _ _ _ hin hw hp hd => step_of_fetch hw (State.fetch_cons hin hp) hd

/-- Settles O40: a fetch finds nothing exactly where every word waits for the consumer. -/
theorem nothingPresentedNothingHappens : Obligations.NothingPresentedNothingHappens := by
  intro s hw hblocked
  have hnone : nextPresented s.consumerFree s.inputs = none :=
    nextPresented_eq_none.2 fun p hp => canPresent_eq_false.2 (hblocked p hp)
  exact step_of_fetch_none hw (by rw [State.fetch, hnone])

/-- Settles O41: the fetched word is the first that can be presented, and under a blocked consumer just the
commands cannot. -/
theorem blockedConsumerPresentsNoCommand : Obligations.BlockedConsumerPresentsNoCommand := by
  intro s t p hblocked hf
  obtain ⟨left, hnext, rfl⟩ := s.fetch_eq_some hf
  obtain ⟨hp, before, after, hin, rfl, hbefore⟩ := nextPresented_eq_some hnext
  refine ⟨fun hport => ?_, before, after, hin, rfl, fun q hq => (canPresent_eq_false.1 (hbefore q hq)).1⟩
  rw [canPresent_eq_true.1 hp hport] at hblocked
  exact absurd hblocked (by decide)

/-- Settles O5: the strobes are decoded by their value; one at 0 can be presented, decodes to nothing, and is
taken away. -/
theorem strobesPresentAtOneOnly : Obligations.StrobesPresentAtOneOnly := by
  refine ⟨rfl, rfl, fun s rest hw hin => ?_⟩
  rcases hin with hin | hin
  · exact step_of_fetch_error hw (State.fetch_cons hin nofun) rfl
  · exact step_of_fetch_error hw (State.fetch_cons hin nofun) rfl

/-! ### A table word -/

/-- A command code decodes to an operation of the command port (30_encoding.md R95). -/
theorem decodeOp_port {op : BitVec 4} {arg : BitVec 80} {i : Instr} (h : decodeOp op arg = .ok i) :
    i.port = .command := by
  unfold decodeOp at h
  split at h <;> cases h <;> rfl

/-- A word decodes to an operation of the port it stands at. -/
theorem decode_port {p : PortWord} {i : Instr} (h : decode p = .ok i) : i.port = p.port := by
  cases p with
  | edge w => cases h; rfl
  | command w => exact decodeOp_port h
  | timer w =>
    simp only [decode] at h
    split at h <;> cases h
    rfl
  | reset w =>
    simp only [decode] at h
    split at h <;> cases h
    rfl

theorem decodeTableWord_eq_some {nbits w : Nat} {i : Instr} (h : decodeTableWord nbits w = some i) :
    ∃ p, tablePortWord nbits w = some p ∧ decode p = .ok i := by
  unfold decodeTableWord at h
  split at h
  · cases h
  · next p hp =>
    refine ⟨p, hp, ?_⟩
    cases hd : decode p with
    | ok j => rw [hd] at h; cases h; rfl
    | error e => rw [hd] at h; cases h

/-- Settles O39: the word stands first with its consumer free, so the step fetches it; its port is that of the
operation it decodes to. -/
theorem tableWordRunsFirst : Obligations.TableWordRunsFirst := by
  intro s nbits w i h
  obtain ⟨p, hp, hd⟩ := decodeTableWord_eq_some h
  have hfree : p.port = .command → (s.presentFirst p).consumerFree = true := fun hport =>
    State.consumerFree_of rfl (if_pos hport)
  have hstep := step_of_fetch (s := s.presentFirst p) (State.heldWaitReady_of_not_waiting rfl)
    (State.fetch_cons rfl hfree) hd
  rw [State.withFetchWord, hp, decode_port hd]
  exact hstep

/-! ### WAIT, LEARN and TMO -/

/-- Settles O23: `WAIT` tests the flag; an outstanding one with a message ready is the first test of a step. -/
theorem waitAnswersWhenReady : Obligations.WaitAnswersWhenReady := by
  refine ⟨fun s h => exec_wait_of_ready h, fun s h => exec_wait_of_not_ready h, fun s hwait hready => ?_⟩
  have hheld : s.heldWaitReady = true := by simp [State.heldWaitReady, hwait, hready]
  have hstep : step s = exec .wait s := if_pos hheld
  rw [hstep, exec_wait_of_ready hready]
  rfl

/-- Settles O35: `LEARN` tests the flag. -/
theorem learnWaitsForMessage : Obligations.LearnWaitsForMessage :=
  fun _ u hready => exec_learn_of_not_ready hready u

/-- Settles O36: `TMO` tests the pending learn, and its answer writes nothing else. -/
theorem tmoEndsPendingLearn : Obligations.TmoEndsPendingLearn :=
  fun _ => ⟨fun h => exec_tmo_of_pending h, fun h => exec_tmo_of_not_pending h⟩

@[simp] theorem State.learnHook_consumerWaiting (s : State) :
    s.learnHook.consumerWaiting = s.consumerWaiting := by
  rcases s.learnHook_cases with ⟨-, -, h⟩ | ⟨-, h⟩ <;> rw [h]
  simp

@[simp] theorem State.learnHook_inputs (s : State) : s.learnHook.inputs = s.inputs := by
  rcases s.learnHook_cases with ⟨-, -, h⟩ | ⟨-, h⟩ <;> rw [h]
  simp

/-- Only the answer of the `WAIT` itself and `RST` clear the consumer's wait (41_decoder.md R167). -/
theorem Effect.consumerWaiting {s t : State} {i : Instr} (hready : s.messageReady = false)
    (hwait : s.consumerWaiting = true) (h : Effect s i t) : t.consumerWaiting = true ∨ i = .rst := by
  cases h with
  | edgeTaken => exact .inl (by simpa using hwait)
  | waitAnswered hr => exact absurd hr (by simp [hready])
  | waitHeld => exact .inl rfl
  | added => exact .inl (by simpa using hwait)
  | learned => exact .inl (by simpa using hwait)
  | erased => exact .inl (by simpa using hwait)
  | reset => exact .inr rfl
  | _ => exact .inl hwait

/-- Settles O24: with no message ready the `WAIT` is not answered, so of the operations only `RST` ends it. -/
theorem onlyResetEndsWaitEarly : Obligations.OnlyResetEndsWaitEarly := by
  intro s t hwait hready h
  rcases step_eq_next h with ⟨L, rfl⟩ | ⟨i, L, he, hrst⟩
  · exact .inl hwait
  · exact (Effect.consumerWaiting (s := { s with inputs := L }) hready hwait he).imp id hrst

/-! ### Events of one moment -/

theorem State.withInputs_self {s : State} {L : List PortWord} (h : s.inputs = L) : { s with inputs := L } = s := by
  rw [← h]

/-- Nothing holds back a first word that is no command; one of a free consumer no command either. -/
theorem step_withInputs {s : State} (hw : s.consumerWaiting = false) {p : PortWord} {rest : List PortWord}
    {i : Instr} (hp : p.port = .command → s.learnPending = false) (hd : decode p = .ok i) :
    step { s with inputs := p :: rest } = exec i { s with inputs := rest } :=
  step_of_fetch (s := { s with inputs := p :: rest }) (State.heldWaitReady_of_not_waiting hw)
    (State.fetch_cons rfl fun h => State.consumerFree_of hw (hp h)) hd

/-- A `TMO` reads nothing of what still stands at the ports. -/
theorem exec_tmo_withInputs {s t : State} (L : List PortWord) (h : exec .tmo s = .next t) :
    exec .tmo { s with inputs := L } = .next { t with inputs := L } := by
  rcases Bool.eq_false_or_eq_true s.learnPending with hl | hl
  · rw [exec_tmo_of_pending hl] at h; cases h
    exact exec_tmo_of_pending (s := { s with inputs := L }) hl
  · rw [exec_tmo_of_not_pending hl] at h; cases h
    exact exec_tmo_of_not_pending (s := { s with inputs := L }) hl

/-- What a `TMO` leaves: no learn pending, and the ports and the consumer's wait as they were. -/
theorem exec_tmo_frame {s t : State} (h : exec .tmo s = .next t) :
    t.learnPending = false ∧ t.consumerWaiting = s.consumerWaiting ∧ t.inputs = s.inputs := by
  cases hl : s.learnPending with
  | true =>
    rw [exec_tmo_of_pending hl] at h; cases h
    exact ⟨rfl, rfl, rfl⟩
  | false =>
    rw [exec_tmo_of_not_pending hl] at h; cases h
    exact ⟨hl, rfl, rfl⟩

/-- What an edge leaves of the ports and of the consumer's wait. -/
theorem exec_edge_frame {s t : State} {d : Nat} {l : Level} (h : exec (.edge d l) s = .next t) :
    t.consumerWaiting = s.consumerWaiting ∧ t.inputs = s.inputs := by
  cases Effect.of_exec h with
  | answered _ _ hport => cases hport
  | edgeDropped => exact ⟨rfl, rfl⟩
  | edgeTaken => simp

/-- The words of a moment without an asserted reset, in their order. -/
theorem Moment.ordered_of_not_reset {r : Option (BitVec 1)} (hr : r ≠ some 1) (e : Option (BitVec 17))
    (tmo : Option (BitVec 1)) (c : Option (BitVec 84)) :
    Moment.ordered ⟨r, e, tmo, c⟩ = (e.map PortWord.edge).toList ++ (tmo.map PortWord.timer).toList ++
      (c.map PortWord.command).toList :=
  if_neg hr

theorem State.present_of_empty {s : State} (h : s.inputs = []) (m : Moment) :
    s.present m = { s with inputs := m.ordered } := by
  rw [State.present, h, List.nil_append]

/-- Settles O42: the moment's words stand in the block's order, and each step in turn takes the first of them;
an edge and a `TMO` read nothing of what stands behind, and after a `TMO` no learn holds the command back. -/
theorem simultaneousEventsInOrder : Obligations.SimultaneousEventsInOrder := by
  intro s hin hw
  have hempty : ∀ t : State, t.inputs = s.inputs → { t with inputs := [] } = t := fun t ht =>
    State.withInputs_self (ht.trans hin)
  refine ⟨fun e tmo c => ?reset, fun hwait r e c d l i hr hde hdc => ⟨?edgeFirst, ?tmoFirst⟩⟩
  case reset =>
    rw [State.present_of_empty hin]
    refine (step_of_fetch (s := { s with inputs := [.reset 1] }) (p := .reset 1) hw
      (State.fetch_cons rfl nofun) rfl).trans ?_
    exact congrArg (exec .rst) (hempty s rfl)
  case edgeFirst =>
    obtain ⟨u, hu, -⟩ := exec_effect (.edge d l) s
    obtain ⟨v, hv, -⟩ := exec_effect .tmo u
    obtain ⟨huw, hui⟩ := exec_edge_frame hu
    obtain ⟨hvl, hvw, hvi⟩ := exec_tmo_frame hv
    have hedge : ∀ L, step { s with inputs := .edge e :: L } = .next { u with inputs := L } := fun L =>
      (step_withInputs (p := .edge e) hwait nofun hde).trans (exec_edge_withInputs L hu)
    have htmo : ∀ L, step { u with inputs := .timer 1 :: L } = .next { v with inputs := L } := fun L =>
      (step_withInputs (p := .timer 1) (huw.trans hwait) nofun rfl).trans (exec_tmo_withInputs L hv)
    have hcommand : ∀ t : State, t.consumerWaiting = false → t.inputs = s.inputs → t.learnPending = false →
        step { t with inputs := [.command c] } = exec i t := fun t htw hti htl =>
      (step_withInputs htw (fun _ => htl) hdc).trans (congrArg (exec i) (hempty t hti))
    have hvempty : { v with inputs := [] } = v := hempty v (hvi.trans hui)
    simp only [State.present_of_empty hin, Moment.ordered_of_not_reset hr]
    refine ⟨u, v, hu, hv, hedge _, htmo _, ?_, hedge _, ?_, hedge _, ?_⟩
    · exact hcommand v (hvw.trans (huw.trans hwait)) (hvi.trans hui) hvl
    · rw [htmo, hvempty]
    · exact hcommand u (huw.trans hwait) hui
  case tmoFirst =>
    obtain ⟨v, hv, -⟩ := exec_effect .tmo s
    obtain ⟨hvl, hvw, hvi⟩ := exec_tmo_frame hv
    rw [State.present_of_empty hin, Moment.ordered_of_not_reset hr]
    refine ⟨v, hv, ?_, ?_⟩
    · exact (step_withInputs (p := .timer 1) hwait nofun rfl).trans (exec_tmo_withInputs _ hv)
    · exact (step_withInputs (hvw.trans hwait) (fun _ => hvl) hdc).trans
        (congrArg (exec i) (hempty v hvi))

end Sys2Proof.Machine
end

section
/-! PROOFS. Data bits and finished bytes (41_decoder.md R156, R159 to R164), the learn that a message ends
(42_registry.md R199), and what an edge can change. -/

namespace Sys2Proof.Machine

/-! ### What a data bit does -/

theorem State.shiftIn_unfinished {s : State} (hn : s.bitCount.toNat < 7) (b : Bool) :
    s.shiftIn b = s.shiftBit b := by
  refine s.shiftIn_of_ne b fun h => ?_
  have hnext : (s.bitCount + 1).toNat = s.bitCount.toNat + 1 := toNat_add_one (by omega)
  have h8 : (s.bitCount + 1).toNat = 8 := congrArg BitVec.toNat h
  omega

/-- The state in which the eighth bit `b` leaves the decoder to `complete_byte()` (41_decoder.md R160). -/
def State.byteEnded (s : State) (b : Bool) : State := { s.shiftBit b with byteStarted := false }

/-- The state in which the tenth byte leaves the decoder to the learn hook (`shiftIn_tenth`). -/
def State.messageEnded (s : State) (b : Bool) : State :=
  { s with
    messageReady := true
    packetStarted := false
    byteStarted := false
    byteAccum := shiftByte s.byteAccum b
    bitCount := 8
    buf := s.buf.set 9 (shiftByte s.byteAccum b)
    bytesCollected := 10 }

@[simp] theorem State.messageEnded_learnPending (s : State) (b : Bool) :
    (s.messageEnded b).learnPending = s.learnPending := rfl

section FinishedByte

variable {s : State} (hn : s.bitCount = 7) (b : Bool)
include hn

theorem State.shiftIn_finished : s.shiftIn b = (s.byteEnded b).completeByte :=
  s.shiftIn_of_eq b (by rw [hn]; rfl)

/-- The byte is stored, and it is not the tenth (41_decoder.md R161). -/
theorem State.shiftIn_stored
    (hpass : s.bytesCollected = 0 → s.cfg.sentinelMode = .off ∨ shiftByte s.byteAccum b = s.cfg.sentinel)
    (hten : s.bytesCollected ≠ 9) : s.shiftIn b = { s with
      byteStarted := false
      byteAccum := shiftByte s.byteAccum b
      bitCount := 8
      buf := s.buf.setIfInBounds s.bytesCollected.toNat (shiftByte s.byteAccum b)
      bytesCollected := s.bytesCollected + 1 } := by
  have hnext : s.bytesCollected + 1 ≠ 10 := fun h => hten (by bv_omega)
  have h8 : s.bitCount + 1 = 8 := by rw [hn]; rfl
  rw [State.shiftIn_finished hn, (s.byteEnded b).completeByte_stored hpass hnext, ← h8]
  rfl

/-- Byte 0 fails the check and is repaired (41_decoder.md R162, R163). -/
theorem State.shiftIn_repaired (h0 : s.bytesCollected = 0) (hmode : s.cfg.sentinelMode = .recover)
    (hne : shiftByte s.byteAccum b ≠ s.cfg.sentinel) (halt : shiftByte s.byteAccum b = s.cfg.sentinelAlt) :
    s.shiftIn b = s.recover := by
  have hoff : s.cfg.sentinelMode ≠ .off := by simp [hmode]
  rw [State.shiftIn_finished hn, (s.byteEnded b).completeByte_mismatch h0 hoff hne]
  exact if_pos ⟨hmode, halt⟩

/-- Byte 0 fails the check and the packet is discarded (41_decoder.md R162). -/
theorem State.shiftIn_discarded (h0 : s.bytesCollected = 0) (hmode : s.cfg.sentinelMode ≠ .off)
    (hne : shiftByte s.byteAccum b ≠ s.cfg.sentinel)
    (hno : ¬(s.cfg.sentinelMode = .recover ∧ shiftByte s.byteAccum b = s.cfg.sentinelAlt)) :
    s.shiftIn b = s.abort := by
  rw [State.shiftIn_finished hn, (s.byteEnded b).completeByte_mismatch h0 hmode hne]
  exact if_neg hno

/-- The tenth byte (41_decoder.md R164). -/
theorem State.shiftIn_tenth (h9 : s.bytesCollected = 9) : s.shiftIn b = s.messageEnded b :=
  (State.shiftIn_finished hn b).trans (State.completeByte_shiftBit_tenth hn h9 b)

end FinishedByte

/-- An edge in `BYTE_IN_PROGRESS` that is classified as a pulse is a data bit, and then the learn hook. -/
theorem exec_edge_dataBit {s : State} (hp : s.phase = .byteInProgress) {b : Bool} {d : Nat} {l : Level}
    (hc : classify s.cfg d l = if b then .shortPulse else .longPulse) :
    exec (.edge d l) s = .next (s.shiftIn b).learnHook := by
  obtain ⟨hready, -⟩ := State.phase_eq_byteInProgress.1 hp
  rw [exec_edge_of_not_ready hready, hc, State.onPulse_symbol hp]

/-- A data bit that leaves no message ready is what it does to the decoder. -/
theorem exec_edge_dataBit_of_eq {s t : State} (hp : s.phase = .byteInProgress) {b : Bool} {d : Nat} {l : Level}
    (hc : classify s.cfg d l = if b then .shortPulse else .longPulse) (ht : s.shiftIn b = t)
    (hr : t.messageReady = s.messageReady) : exec (.edge d l) s = .next t := by
  obtain ⟨hready, -⟩ := State.phase_eq_byteInProgress.1 hp
  rw [exec_edge_dataBit hp hc, ht, State.learnHook_of_not_ready (hr.trans hready)]

/-- Settles O12: the bit is shifted in, and fewer than eight do not finish the byte. -/
theorem dataBitShiftsIn : Obligations.DataBitShiftsIn :=
  fun _ b _ _ hp hn hs =>
    exec_edge_dataBit_of_eq hp (classify_symbol hs) (State.shiftIn_unfinished hn b) rfl

/-- Settles O13: the eighth bit finishes the byte, which passes the check or is not checked. -/
theorem finishedByteIsStored : Obligations.FinishedByteIsStored := by
  rintro s b d l v hp hn hs rfl hle hpass
  have hten : s.bytesCollected ≠ 9 := fun h => absurd hle (by simp [h])
  have hexec := exec_edge_dataBit_of_eq hp (classify_symbol hs) (State.shiftIn_stored hn b hpass hten) rfl
  obtain ⟨hready, hps, -⟩ := State.phase_eq_byteInProgress.1 hp
  exact ⟨_, hexec, State.phase_eq_packetStarted.2 ⟨hready, hps, rfl⟩, rfl⟩

/-- The modes in which a byte 0 that fails the check is discarded check it. -/
theorem not_off_of_discards {cfg : Config} {v : Byte}
    (h : cfg.sentinelMode = .strict ∨ cfg.sentinelMode = .recover ∧ v ≠ cfg.sentinelAlt) :
    cfg.sentinelMode ≠ .off := by
  rcases h with h | ⟨h, -⟩ <;> simp [h]

/-- The modes in which a byte 0 that fails the check is discarded do not repair it. -/
theorem not_repaired {cfg : Config} {v : Byte}
    (h : cfg.sentinelMode = .strict ∨ cfg.sentinelMode = .recover ∧ v ≠ cfg.sentinelAlt) :
    ¬(cfg.sentinelMode = .recover ∧ v = cfg.sentinelAlt) := by
  rintro ⟨hrec, halt⟩
  rcases h with h | ⟨-, h⟩
  · exact absurd (h.symm.trans hrec) (by decide)
  · exact h halt

/-- Settles O14: byte 0 fails the check, and the mode or the value rules a repair out. -/
theorem wrongFirstByteIsDiscarded : Obligations.WrongFirstByteIsDiscarded := by
  rintro s b d l v hp hn hs rfl h0 hne hmode
  exact exec_edge_dataBit_of_eq hp (classify_symbol hs)
    (State.shiftIn_discarded hn b h0 (not_off_of_discards hmode) hne (not_repaired hmode)) rfl

/-- Settles O15: byte 0 fails the check and is the value that a lost pulse makes of the sentinel. -/
theorem lostPulseByteIsRepaired : Obligations.LostPulseByteIsRepaired := by
  intro s b d l hp hn hs halt h0 hne hmode
  have hval : shiftByte s.byteAccum b = s.cfg.sentinelAlt := halt.symm
  have hexec := exec_edge_dataBit_of_eq hp (classify_symbol hs)
    (State.shiftIn_repaired hn b h0 hmode (hval ▸ hne) hval) rfl
  obtain ⟨hready, hps, -⟩ := State.phase_eq_byteInProgress.1 hp
  exact ⟨_, hexec, State.phase_eq_byteInProgress.2 ⟨hready, hps, rfl⟩, rfl⟩

/-- Settles O16: the tenth byte completes the message, and with no learn pending the hook leaves it ready. -/
theorem tenthByteCompletesMessage : Obligations.TenthByteCompletesMessage := by
  rintro s b d l v hp hn hs rfl h9 hlearn
  have hexec := exec_edge_dataBit hp (classify_symbol hs)
  rw [State.shiftIn_tenth hn b h9] at hexec
  exact ⟨_, hexec.trans (congrArg _ (State.learnHook_of_not_pending hlearn)),
    State.phase_eq_messageReady.2 rfl, rfl, rfl⟩

/-! ### A learn that fires -/

theorem State.learnHook_of_ready {s : State} (hl : s.learnPending = true) (hr : s.messageReady = true) :
    s.learnHook = s.learnFire :=
  if_pos (by simp [hl, hr])

/-- What counts as appended speaks of the starting state's store and configuration alone. -/
theorem Appended.of_eq {s s' t : State} {i : EntryIndex} {m : Message} (h : Appended s' t i m)
    (hcfg : s'.cfg = s.cfg) (hstore : s'.store = s.store) : Appended s t i m := by
  obtain ⟨hidentity, hswitchId, hpaired, hcount, helsewhere⟩ := h
  rw [hcfg, hstore] at helsewhere
  exact ⟨hidentity, hswitchId, hpaired, hcount, helsewhere⟩

/-- The state that `learn_fire()` adds the message to (42_registry.md R199). -/
def State.messageTaken (s : State) : State :=
  { s with
    messageReady := false
    packetStarted := false
    byteStarted := false
    bitCount := 0
    byteAccum := 0
    bytesCollected := 0
    learnPending := false }

theorem State.learnFire_eq_addMessage (s : State) : s.learnFire = s.messageTaken.addMessage s.buf := rfl

/-- `learn_fire()` on a full registry (42_registry.md R196, R199). -/
theorem State.learnFire_of_full {s : State} (h : 6 ≤ s.regCount.toNat) : s.learnFire = { s with
    messageReady := false, packetStarted := false, byteStarted := false, bitCount := 0, byteAccum := 0
    bytesCollected := 0, learnPending := false, responses := s.responses ++ [⟨false, 0⟩] } := by
  rw [State.learnFire_eq_addMessage, s.messageTaken.addMessage_of_full h]
  rfl

/-- `learn_fire()` with room is an `ADD` of the buffer by a state with the decoder cleared and the learn ended
(42_registry.md R195, R199). -/
theorem State.learnFire_of_room {s : State} {i : EntryIndex} (hi : s.regCount.toNat = i.val)
    (hm : Memory.wf s.store) : Appended s s.learnFire i s.buf ∧ s.learnFire = { s with
      messageReady := false, packetStarted := false, byteStarted := false, bitCount := 0, byteAccum := 0
      bytesCollected := 0, learnPending := false, regCount := s.regCount + 1
      ent := s.ent.set i (recordedEntry s.buf), store := s.learnFire.store
      storeTrace := s.storeTrace ++ appendRequests i s.buf
      responses := s.responses ++ [⟨true, BitVec.ofNat 80 i.val⟩] } := by
  rw [State.learnFire_eq_addMessage]
  obtain ⟨u, hu, happended, hframe⟩ := addAppendsEntry s.messageTaken s.buf i hi hm
  cases hu
  exact ⟨happended.of_eq rfl rfl, hframe⟩

/-- Settles O34: `LEARN` with a message ready is `learn_fire()`. -/
theorem learnStoresWaitingMessage : Obligations.LearnStoresWaitingMessage := by
  refine fun s u hready => ⟨fun hfull => ?_, fun i hi hm => ?_⟩
  · rw [exec_learn_of_ready hready, State.learnFire_of_full hfull]
  · exact ⟨_, exec_learn_of_ready hready u, State.learnFire_of_room hi hm⟩

/-- Settles O17: the tenth byte completes the message, the hook fires on the completed state, and what the
completion wrote is the buffer and decoder registers that `learn_fire()` clears again. -/
theorem completionFiresPendingLearn : Obligations.CompletionFiresPendingLearn := by
  rintro s b d l m hp hn hs h9 rfl hlearn
  have hexec := exec_edge_dataBit hp (classify_symbol hs)
  rw [State.shiftIn_tenth hn b h9, State.learnHook_of_ready (s := s.messageEnded b) hlearn rfl] at hexec
  obtain ⟨hready, -⟩ := State.phase_eq_byteInProgress.1 hp
  refine ⟨fun hfull => ?full, fun i hi hm => ?room⟩
  case full =>
    rw [hexec, State.learnFire_of_full (s := s.messageEnded b) hfull, hready]
    rfl
  case room =>
    obtain ⟨happended, hframe⟩ := State.learnFire_of_room (s := s.messageEnded b) hi hm
    refine ⟨_, hexec, happended.of_eq rfl rfl, ?_⟩
    rw [hready]
    exact hframe

/-! ### The frame of an edge -/

/-- `s` with the fields of `t` that the decoder's actions write (10_state.md R20, R34). -/
def State.withDecoderOf (s t : State) : State :=
  { s with
    packetStarted := t.packetStarted
    byteStarted := t.byteStarted
    bitCount := t.bitCount
    byteAccum := t.byteAccum
    bytesCollected := t.bytesCollected
    buf := t.buf
    messageReady := t.messageReady
    cnt := t.cnt }

theorem State.completeByte_frame (s : State) : s.completeByte = s.withDecoderOf s.completeByte := by
  rcases s.completeByte_cases with ⟨-, -, -, -, -, h⟩ | ⟨-, -, -, -, h⟩ | ⟨-, -, h⟩ | ⟨-, -, h⟩ <;> rw [h] <;> rfl

theorem State.shiftIn_frame (s : State) (b : Bool) : s.shiftIn b = s.withDecoderOf (s.shiftIn b) := by
  by_cases h8 : s.bitCount + 1 = 8
  · rw [s.shiftIn_of_eq b h8]
    exact State.completeByte_frame { s.shiftBit b with byteStarted := false }
  · rw [s.shiftIn_of_ne b h8]; rfl

theorem State.onPulse_frame (s : State) (c : PulseClass) : s.onPulse c = s.withDecoderOf (s.onPulse c) := by
  rcases s.onPulse_cases c with ⟨-, h⟩ | ⟨v, -, h⟩ | ⟨-, -, h⟩ | ⟨-, -, -, h⟩ | ⟨b, -, -, -, h⟩ <;> rw [h]
  · rfl
  · rfl
  · rfl
  · rfl
  · exact s.shiftIn_frame b

/-- An edge that fires no learn is the decoder's action, and nothing after it. -/
theorem State.learnHook_of_not_fires {s : State} {d : Nat} {l : Level} (hready : s.messageReady = false)
    (h : ¬FiresLearn d l s) :
    (s.onPulse (classify s.cfg d l)).learnHook = s.onPulse (classify s.cfg d l) := by
  rcases (s.onPulse (classify s.cfg d l)).learnHook_cases with ⟨hl, hr, -⟩ | ⟨-, hsame⟩
  · rw [State.onPulse_learnPending] at hl
    exact absurd ⟨hready, hl, hr⟩ h
  · exact hsame

/-- Settles O18: a dropped edge changes nothing, and a taken one that fires no learn is the decoder's action,
which writes the decoder's fields alone. -/
theorem edgeWritesOnlyTheDecoder : Obligations.EdgeWritesOnlyTheDecoder := by
  intro s t d l h hfires
  cases Effect.of_exec h with
  | answered _ _ hport => cases hport
  | edgeDropped => rfl
  | edgeTaken hready =>
    rw [State.learnHook_of_not_fires hready hfires]
    exact s.onPulse_frame _

/-! ### The phase after an edge -/

theorem State.phase_of_cleared {t : State} (h : Cleared t) : t.phase = .idle :=
  State.phase_eq_idle.2 ⟨h.messageReady, h.packetStarted⟩

theorem State.phase_learnFire (s : State) : s.learnFire.phase = .idle :=
  State.phase_of_cleared (.learnFire s)

theorem exec_edge_phase_of_violation {s t : State} {d : Nat} {l : Level} (hready : s.messageReady = false)
    (h : exec (.edge d l) s = .next t) {v : Violation}
    (hpulse : s.onPulse (classify s.cfg d l) = s.raiseViolation v) : t.phase = .idle := by
  have hexec := exec_edge_of_onPulse hready hpulse hready
  rw [h] at hexec
  cases hexec
  exact State.phase_of_cleared (.raiseViolation hready v)

section DataBitPhase

variable {s t : State} {d : Nat} {l : Level} {b : Bool} (h : exec (.edge d l) s = .next t)
  (hp : s.phase = .byteInProgress) (hc : classify s.cfg d l = if b then .shortPulse else .longPulse)
include h hp hc

theorem exec_edge_phase_of_dataBit {u : State} (hu : s.shiftIn b = u) (hr : u.messageReady = s.messageReady) :
    t.phase = u.phase := by
  have hexec := exec_edge_dataBit_of_eq hp hc hu hr
  rw [h] at hexec
  cases hexec
  rfl

theorem exec_edge_phase_of_unfinished (hn : s.bitCount.toNat ≤ 6) : t.phase = .byteInProgress :=
  (exec_edge_phase_of_dataBit h hp hc (State.shiftIn_unfinished (by omega) b) rfl).trans hp

theorem exec_edge_phase_of_stored (hn : s.bitCount = 7)
    (hpass : s.bytesCollected = 0 → s.cfg.sentinelMode = .off ∨ shiftByte s.byteAccum b = s.cfg.sentinel)
    (hten : s.bytesCollected ≠ 9) : t.phase = .packetStarted := by
  obtain ⟨hready, hps, -⟩ := State.phase_eq_byteInProgress.1 hp
  rw [exec_edge_phase_of_dataBit h hp hc (State.shiftIn_stored hn b hpass hten) rfl]
  exact State.phase_eq_packetStarted.2 ⟨hready, hps, rfl⟩

theorem exec_edge_phase_of_repaired (hn : s.bitCount = 7) (h0 : s.bytesCollected = 0)
    (hmode : s.cfg.sentinelMode = .recover) (hne : shiftByte s.byteAccum b ≠ s.cfg.sentinel)
    (halt : shiftByte s.byteAccum b = s.cfg.sentinelAlt) : t.phase = .byteInProgress := by
  obtain ⟨hready, hps, -⟩ := State.phase_eq_byteInProgress.1 hp
  rw [exec_edge_phase_of_dataBit h hp hc (State.shiftIn_repaired hn b h0 hmode hne halt) rfl]
  exact State.phase_eq_byteInProgress.2 ⟨hready, hps, rfl⟩

theorem exec_edge_phase_of_discarded (hn : s.bitCount = 7) (h0 : s.bytesCollected = 0)
    (hmode : s.cfg.sentinelMode ≠ .off) (hne : shiftByte s.byteAccum b ≠ s.cfg.sentinel)
    (hno : ¬(s.cfg.sentinelMode = .recover ∧ shiftByte s.byteAccum b = s.cfg.sentinelAlt)) :
    t.phase = .idle := by
  obtain ⟨hready, -⟩ := State.phase_eq_byteInProgress.1 hp
  rw [exec_edge_phase_of_dataBit h hp hc (State.shiftIn_discarded hn b h0 hmode hne hno) rfl]
  exact State.phase_of_cleared (.abort hready)

theorem exec_edge_phase_of_tenth (hn : s.bitCount = 7) (h9 : s.bytesCollected = 9) :
    t.phase = if s.learnPending then .idle else .messageReady := by
  rw [exec_edge_dataBit hp hc, State.shiftIn_tenth hn b h9] at h
  cases h
  split
  · next hl => rw [State.learnHook_of_ready (s := s.messageEnded b) hl rfl]; exact State.phase_learnFire _
  · next hl =>
    rw [State.learnHook_of_not_pending (by simpa using hl)]
    exact State.phase_eq_messageReady.2 rfl

end DataBitPhase

/-- Settles O20: the ready phase drops the edge, IGNORE does nothing, a violation aborts, a marker starts what is
due, and a data bit is one of the five outcomes of `shift_in()`. -/
theorem phaseAfterEdge : Obligations.PhaseAfterEdge := by
  intro s t d l _ h
  refine ⟨fun hp => ?ready, fun hp => ⟨fun hc => ?ignored, fun v hc => ?violation⟩, fun hc hp => ?startsPacket,
    fun hc hp => ?startsByte, fun hc hp => ?noStart, fun b v hc hv hp => ?dataBit⟩
  case ready =>
    rw [exec_edge_of_ready (State.phase_eq_messageReady.1 hp)] at h
    cases h
    exact hp
  case ignored =>
    have hready : s.messageReady = false := by simpa [State.phase_eq_messageReady] using hp
    rw [exec_edge_of_ignore hready hc] at h
    cases h
    rfl
  case violation =>
    have hready : s.messageReady = false := by simpa [State.phase_eq_messageReady] using hp
    exact exec_edge_phase_of_violation hready h (s.onPulse_of_eq_invalid hc)
  case startsPacket =>
    obtain ⟨hready, -⟩ := State.phase_eq_idle.1 hp
    have hpulse : s.onPulse (classify s.cfg d l) = s.startPacket := by
      rw [hc, State.onPulse_shortPulse_of_idle hp]
    rw [exec_edge_of_onPulse hready hpulse hready] at h
    cases h
    exact State.startPacket_phase hready
  case startsByte =>
    obtain ⟨hready, -⟩ := State.phase_eq_packetStarted.1 hp
    have hpulse : s.onPulse (classify s.cfg d l) = s.startByte := by
      rw [hc, State.onPulse_shortPulse_of_packetStarted hp]
    rw [exec_edge_of_onPulse hready hpulse hready] at h
    cases h
    exact State.startByte_phase hp
  case noStart =>
    obtain ⟨hready, hmarker⟩ :
        s.messageReady = false ∧ (s.packetStarted = false ∨ s.byteStarted = false) := by
      rcases hp with hp | hp
      · obtain ⟨hready, hps⟩ := State.phase_eq_idle.1 hp
        exact ⟨hready, .inl hps⟩
      · obtain ⟨hready, -, hbs⟩ := State.phase_eq_packetStarted.1 hp
        exact ⟨hready, .inr hbs⟩
    exact exec_edge_phase_of_violation hready h (by rw [hc, State.onPulse_longPulse_of_no_byte hmarker])
  case dataBit =>
    subst hv
    refine ⟨exec_edge_phase_of_unfinished h hp hc, fun hn => ⟨fun h0 => ⟨fun hpass => ?_, fun hne hmode halt => ?_,
      fun hne hmode => ?_⟩, fun h1 h8 => ?_, exec_edge_phase_of_tenth h hp hc hn⟩⟩
    · exact exec_edge_phase_of_stored h hp hc hn (fun _ => hpass) (by simp [h0])
    · exact exec_edge_phase_of_repaired h hp hc hn h0 hmode hne halt
    · exact exec_edge_phase_of_discarded h hp hc hn h0 (not_off_of_discards hmode) hne (not_repaired hmode)
    · have h0 : s.bytesCollected ≠ 0 := fun e => absurd h1 (by simp [e])
      have h9 : s.bytesCollected ≠ 9 := fun e => absurd h8 (by simp [e])
      exact exec_edge_phase_of_stored h hp hc hn (fun e => absurd e h0) h9

end Sys2Proof.Machine
end

section
/-! PROOFS. The store's form, its agreement with the working copy, and the entries of the registry
(20_memory.md section 1, 42_registry.md section 7). -/

namespace Sys2Proof.Machine

/-! ### What the learn hook and the append leave of the registry -/

/-- The learn hook is an `ADD` of the buffer by a state with the same registry side, or nothing. -/
theorem State.learnHook_addMessage (s : State) :
    s.learnHook = s ∨ s.learnHook = s.messageTaken.addMessage s.buf := by
  rcases s.learnHook_cases with ⟨-, -, h⟩ | ⟨-, h⟩
  · exact .inr h
  · exact .inl h

/-! ### The store's form -/

/-- The store of `t` is in canonical form if that of `s` is, and agrees with it outside the region. -/
def StoreKept (s t : State) : Prop :=
  (Memory.wf s.store → Memory.wf t.store) ∧
    ∀ addr : Nat, addr < s.cfg.storeBase ∨ s.cfg.storeBase + 48 < addr → t.store.read addr = s.store.read addr

theorem StoreKept.of_eq {s t : State} (h : t.store = s.store) : StoreKept s t := by
  unfold StoreKept
  rw [h]
  exact ⟨id, fun _ _ => rfl⟩

theorem StoreKept.of_same {s s' t : State} (h : StoreKept s' t) (hstore : s'.store = s.store)
    (hcfg : s'.cfg = s.cfg) : StoreKept s t := by
  unfold StoreKept at h
  rwa [hstore, hcfg] at h

theorem StoreKept.memWrites (s : State) (ws : List (Offset × Byte)) : StoreKept s (s.memWrites ws) := by
  refine ⟨fun hm => s.wf_memWrites hm ws, fun addr hout => s.read_memWrites_of_ne ws addr fun w _ => ?_⟩
  simp only [storeAddress]
  omega

theorem StoreKept.addMessage (s : State) (m : Message) : StoreKept s (s.addMessage m) := by
  rcases s.addMessage_cases m with ⟨i, -, h⟩ | ⟨-, h⟩ <;> rw [h]
  · have hstore := s.appendAt_store i m
    have hwrites := StoreKept.memWrites s (slotWrites i m ++ [(0, BitVec.ofNat 8 (i.val + 1))])
    unfold StoreKept at hwrites ⊢
    rwa [State.respond_store, hstore]
  · exact .of_eq rfl

theorem StoreKept.learnFire (s : State) : StoreKept s s.learnFire :=
  (StoreKept.addMessage s.messageTaken s.buf).of_same rfl rfl

theorem StoreKept.effect {s t : State} {i : Instr} (h : Effect s i t) : StoreKept s t := by
  cases h with
  | edgeTaken =>
    rcases (s.onPulse (classify s.cfg _ _)).learnHook_cases with ⟨-, -, h⟩ | ⟨-, h⟩ <;> rw [h]
    · exact (StoreKept.learnFire _).of_same (by simp) (by simp)
    · exact .of_eq (by simp)
  | added m => exact .addMessage s m
  | learned => exact .learnFire s
  | erased =>
    have hstore := s.afterErase_store
    have hwrites := StoreKept.memWrites s (allOffsets.map fun a => (a, 0x00))
    unfold StoreKept at hwrites ⊢
    rwa [hstore]
  | _ => exact .of_eq rfl

/-- Settles O49: all writes are writes of bytes at offsets of the region, each of which keeps the form. -/
theorem stepKeepsStoreForm : Obligations.StepKeepsStoreForm := by
  intro s t h
  rcases step_eq_next h with ⟨L, rfl⟩ | ⟨i, L, he, -⟩
  · exact StoreKept.of_eq rfl
  · exact (StoreKept.effect he).of_same rfl rfl

/-! ### Agreement of the working copy with the store -/

/-- `t` has the store and the working copy of `s`. -/
structure SameRegistry (s t : State) : Prop where
  cfg : t.cfg = s.cfg
  store : t.store = s.store
  regCount : t.regCount = s.regCount
  ent : t.ent = s.ent
  regCorrupt : t.regCorrupt = s.regCorrupt

theorem SameRegistry.onPulse (s : State) (c : PulseClass) : SameRegistry s (s.onPulse c) := by
  constructor <;> simp

theorem SameRegistry.messageTaken (s : State) : SameRegistry s s.messageTaken := ⟨rfl, rfl, rfl, rfl, rfl⟩

theorem SameRegistry.trans {s t u : State} (h : SameRegistry s t) (h' : SameRegistry t u) : SameRegistry s u :=
  ⟨h'.cfg.trans h.cfg, h'.store.trans h.store, h'.regCount.trans h.regCount, h'.ent.trans h.ent,
    h'.regCorrupt.trans h.regCorrupt⟩

/-- What an operation other than `RST` does to the registry: nothing, a load of its store or of the region
zeroed, or an `ADD`. -/
theorem Effect.registry {s t : State} {i : Instr} (h : Effect s i t) (hrst : i ≠ .rst) :
    SameRegistry s t ∨
    (∃ u, SameRegistry s u ∧ (i = .rload ∨ i = .setup) ∧ t = u.reload.respond true 0) ∨
    (i = .erase ∧ t = s.afterErase) ∨ ∃ u m, SameRegistry s u ∧ t = u.addMessage m := by
  have same : SameRegistry s s := ⟨rfl, rfl, rfl, rfl, rfl⟩
  cases h with
  | @edgeTaken d l =>
    have hpulse := SameRegistry.onPulse s (classify s.cfg d l)
    rcases (s.onPulse (classify s.cfg d l)).learnHook_addMessage with h | h <;> rw [h]
    · exact .inl hpulse
    · exact .inr (.inr (.inr ⟨_, _, hpulse.trans (.messageTaken _), rfl⟩))
  | setup => exact .inr (.inl ⟨s.setupCleared, ⟨rfl, rfl, rfl, rfl, rfl⟩, .inr rfl, rfl⟩)
  | loaded => exact .inr (.inl ⟨_, same, .inl rfl, rfl⟩)
  | added m => exact .inr (.inr (.inr ⟨_, m, same, rfl⟩))
  | learned => exact .inr (.inr (.inr ⟨_, _, .messageTaken s, s.learnFire_eq_addMessage⟩))
  | erased => exact .inr (.inr (.inl ⟨rfl, rfl⟩))
  | reset => exact absurd rfl hrst
  | _ => exact .inl ⟨rfl, rfl, rfl, rfl, rfl⟩

theorem SameRegistry.storeByte {s t : State} (h : SameRegistry s t) (a : Offset) :
    t.storeByte a = s.storeByte a :=
  State.storeByte_congr h.store h.cfg a

theorem Coherent.of_same {s t : State} (hs : Coherent s) (h : SameRegistry s t) : Coherent t := by
  obtain ⟨hidentity, hswitchId, hpaired, hcount, hcorrupt⟩ := hs
  constructor <;> simp only [h.storeByte, h.regCount, h.ent, h.regCorrupt] <;> assumption

/-- A load makes the working copy agree with the store it read (42_registry.md R191, R192). -/
theorem Coherent.of_loaded {s t : State} (h : Loaded s t) (hbytes : ∀ a, t.storeByte a = s.storeByte a) :
    Coherent t := by
  obtain ⟨hlegal, hcorrupt, hidentity, hswitchId, hpaired⟩ := h
  constructor <;> simp only [hbytes]
  · exact fun i j => (hidentity i j).symm
  · exact fun i => (hswitchId i).symm
  · exact hpaired
  · intro hc
    rcases Nat.lt_or_ge 6 (s.storeByte 0).toNat with h6 | h6
    · exact absurd ((hcorrupt h6).2.symm.trans hc) (by decide)
    · exact (hlegal h6).1.symm
  · intro hc
    rcases Nat.lt_or_ge 6 (s.storeByte 0).toNat with h6 | h6
    · exact ⟨h6, (hcorrupt h6).1⟩
    · exact absurd ((hlegal h6).2.symm.trans hc) (by decide)

theorem Coherent.reload (s : State) : Coherent (s.reload.respond true 0) :=
  .of_loaded (s.loaded_reload.respond true 0) s.storeByte_reload

theorem Coherent.afterErase (s : State) : Coherent s.afterErase := .reload s.zeroRegion

/-- Settles O51: the three operations end in a load and an answer. -/
theorem loadsMakeCoherent : Obligations.LoadsMakeCoherent := by
  intro i s t hi _ h
  rcases hi with rfl | rfl | rfl <;> cases h
  · exact .reload s
  · exact .reload s.setupCleared
  · exact .afterErase s

/-- An append leaves every byte of the other slots. -/
theorem Appended.storeByte_slot_of_ne {s t : State} {i : EntryIndex} {m : Message} (h : Appended s t i m)
    (hcfg : t.cfg = s.cfg) {j : EntryIndex} (hj : j ≠ i) (k : Fin 8) :
    t.storeByte (slot j k) = s.storeByte (slot j k) := by
  have hne : j.val ≠ i.val := fun e => hj (Fin.ext e)
  have haddr : storeAddress t.cfg (slot j k) = storeAddress s.cfg (slot j k) := by rw [hcfg]
  rw [State.storeByte, State.storeByte, haddr]
  refine h.elsewhere _ ?_ fun k' => ?_ <;> simp only [storeAddress, slot] <;> omega

/-- The entry written and the slot written agree, the other entries and slots are as they were, and the count
byte is the count (42_registry.md R195, R204). -/
theorem Coherent.appendAt {s : State} (hm : Memory.wf s.store) (hs : Coherent s) {i : EntryIndex}
    (hi : s.regCount.toNat = i.val) (m : Message) : Coherent (s.appendAt i m) := by
  have happended : Appended s (s.appendAt i m) i m := State.appended_of_appendAt hm rfl (by simp)
  have hother := fun j (hj : j ≠ i) => happended.storeByte_slot_of_ne (s.appendAt_cfg i m) (j := j) hj
  have hsame : (s.appendAt i m).ent[i.val] = recordedEntry m := by simp [entryOfMessage_eq]
  have hkept : ∀ j : EntryIndex, j ≠ i → (s.appendAt i m).ent[j.val] = s.ent[j.val] := fun j hj => by
    rw [State.appendAt_ent, Vector.getElem_set_ne]
    exact fun e => hj (Fin.ext e.symm)
  have hnotCorrupt : s.regCorrupt ≠ true := fun hc => by
    have h6 := (hs.corrupt hc).2
    rw [h6] at hi
    have := i.isLt
    simp at hi
    omega
  refine ⟨fun j k => ?identity, fun j => ?switchId, fun j => ?paired, fun _ => ?count, fun hc => ?corrupt⟩
  case identity =>
    by_cases hj : j = i
    · subst hj
      rw [hsame, happended.identity]
      fin_cases k <;> rfl
    · rw [hkept j hj, hother j hj, hs.identity]
  case switchId =>
    by_cases hj : j = i
    · subst hj
      rw [hsame, happended.switchId]
      rfl
    · rw [hkept j hj, hother j hj, hs.switchId]
  case paired =>
    by_cases hj : j = i
    · subst hj
      rw [hsame, happended.paired]
      simp [recordedEntry]
    · rw [hkept j hj, hother j hj, hs.paired]
  case count =>
    rw [happended.count, State.appendAt_regCount]
    have := i.isLt
    simp only [BitVec.toNat_ofNat]
    omega
  case corrupt => exact absurd ((s.appendAt_regCorrupt i m).symm.trans hc) hnotCorrupt

theorem SameRegistry.respond (s : State) (ok : Bool) (data : BitVec 80) :
    SameRegistry s (s.respond ok data) := ⟨rfl, rfl, rfl, rfl, rfl⟩

theorem Coherent.addMessage {s : State} (hm : Memory.wf s.store) (hs : Coherent s) (m : Message) :
    Coherent (s.addMessage m) := by
  rcases s.addMessage_cases m with ⟨i, hi, h⟩ | ⟨-, h⟩ <;> rw [h]
  · exact (hs.appendAt hm hi.symm m).of_same (.respond _ _ _)
  · exact hs.of_same (.respond _ _ _)

theorem Coherent.effect {s t : State} {i : Instr} (hm : Memory.wf s.store) (hs : Coherent s)
    (h : Effect s i t) (hrst : i ≠ .rst) : Coherent t := by
  rcases h.registry hrst with hsame | ⟨u, -, -, rfl⟩ | ⟨-, rfl⟩ | ⟨u, m, hu, rfl⟩
  · exact hs.of_same hsame
  · exact .reload u
  · exact .afterErase s
  · exact (hs.of_same hu).addMessage (hu.store ▸ hm) m

/-- An operation of a step that does not reset is no `RST`. -/
theorem step_eq_next_of_not_resets {s t : State} (hno : ¬StepResets s) (h : step s = .next t) :
    (∃ L, t = { s with inputs := L }) ∨ ∃ i L, Effect { s with inputs := L } i t ∧ i ≠ .rst :=
  (step_eq_next h).imp_right fun ⟨i, L, he, hrst⟩ => ⟨i, L, he, fun e => hno (hrst e)⟩

theorem SameRegistry.withInputs (s : State) (L : List PortWord) : SameRegistry s { s with inputs := L } :=
  ⟨rfl, rfl, rfl, rfl, rfl⟩

/-- Settles O52: a load makes the agreement, an append keeps it, and no other operation but `RST` touches
either side. -/
theorem coherenceKept : Obligations.CoherenceKept := by
  intro s t hm hs hno h
  rcases step_eq_next_of_not_resets hno h with ⟨L, rfl⟩ | ⟨i, L, he, hrst⟩
  · exact hs.of_same (.withInputs s L)
  · exact (hs.of_same (.withInputs s L)).effect (s := { s with inputs := L }) hm he hrst

/-! ### Exactly the entries below the count are paired -/

theorem PairedBelowCount.of_same {s t : State} (hs : PairedBelowCount s) (h : SameRegistry s t) :
    PairedBelowCount t := by
  unfold PairedBelowCount at hs ⊢
  rwa [h.regCount, h.ent]

theorem PairedBelowCount.afterErase (s : State) (hm : Memory.wf s.store) : PairedBelowCount s.afterErase := by
  rw [s.afterErase_eq hm]
  exact ⟨Nat.zero_le 6, fun i => by simp⟩

theorem State.afterErase_regCorrupt (s : State) (hm : Memory.wf s.store) : s.afterErase.regCorrupt = false := by
  rw [s.afterErase_eq hm]

/-- The bytes of a store that agrees with a working copy that is not corrupt load as that working copy. -/
theorem PairedBelowCount.reload {s : State} (hc : Coherent s) (hcorrupt : s.regCorrupt = false)
    (hs : PairedBelowCount s) : PairedBelowCount s.reload ∧ s.reload.regCorrupt = false := by
  obtain ⟨hcount, hpaired⟩ := hs
  have hbyte := hc.count hcorrupt
  have hl := s.loaded_reload
  obtain ⟨hcount', hcorrupt'⟩ := hl.legal (hbyte.trans_le hcount)
  refine ⟨⟨by omega, fun i => ?_⟩, hcorrupt'⟩
  rw [hcount', hbyte, ← hpaired, hl.paired, hc.paired]

theorem PairedBelowCount.addMessage {s : State} (hs : PairedBelowCount s) (m : Message) :
    PairedBelowCount (s.addMessage m) := by
  rcases s.addMessage_cases m with ⟨i, hi, h⟩ | ⟨-, h⟩ <;> rw [h]
  · obtain ⟨-, hpaired⟩ := hs
    have hcount : ((s.appendAt i m).respond true (indexData i)).regCount.toNat = i.val + 1 := by
      simp only [State.respond_regCount, State.appendAt_regCount, BitVec.toNat_ofNat]
      omega
    refine ⟨by omega, fun j => ?_⟩
    rw [hcount, State.respond_ent, State.appendAt_ent, Vector.getElem_set]
    split
    · next hij => simp [entryOfMessage, ← hij]
    · next hij => rw [hpaired]; omega
  · exact hs.of_same (.respond _ _ _)

theorem PairedBelowCount.effect {s t : State} {i : Instr} (hm : Memory.wf s.store) (hc : Coherent s)
    (hs : PairedBelowCount s) (hcorrupt : s.regCorrupt = false) (h : Effect s i t) (hrst : i ≠ .rst) :
    PairedBelowCount t ∧ t.regCorrupt = false := by
  rcases h.registry hrst with hsame | ⟨u, hu, -, rfl⟩ | ⟨-, rfl⟩ | ⟨u, m, hu, rfl⟩
  · exact ⟨hs.of_same hsame, hsame.regCorrupt.trans hcorrupt⟩
  · obtain ⟨hpaired, hnot⟩ :=
      PairedBelowCount.reload (hc.of_same hu) (hu.regCorrupt.trans hcorrupt) (hs.of_same hu)
    exact ⟨hpaired.of_same (.respond _ _ _), hnot⟩
  · exact ⟨.afterErase s hm, s.afterErase_regCorrupt hm⟩
  · exact ⟨(hs.of_same hu).addMessage m, (u.addMessage_regCorrupt m).trans (hu.regCorrupt.trans hcorrupt)⟩

/-- Settles O53: an erased registry has no entry; a load finds in the store what the working copy holds, and an
append pairs the entry at the count and raises the count past it. -/
theorem pairedBelowCountKept : Obligations.PairedBelowCountKept := by
  refine ⟨fun s hm => ⟨_, exec_erase s, .afterErase s hm, .afterErase s, s.afterErase_regCorrupt hm⟩,
    fun s t hm hc hs hcorrupt hno h => ?_⟩
  rcases step_eq_next_of_not_resets hno h with ⟨L, rfl⟩ | ⟨i, L, he, hrst⟩
  · exact ⟨hs.of_same (.withInputs s L), hcorrupt⟩
  · exact PairedBelowCount.effect (s := { s with inputs := L }) hm (hc.of_same (.withInputs s L))
      (hs.of_same (.withInputs s L)) hcorrupt he hrst

/-! ### Present entries -/

/-- Every entry present in `s` is present in `t` at its index, unchanged. -/
def EntriesStay (s t : State) : Prop :=
  s.regCount.toNat ≤ t.regCount.toNat ∧
    ∀ k : EntryIndex, k.val < s.regCount.toNat → t.ent[k.val] = s.ent[k.val]

theorem EntriesStay.of_same {s t : State} (h : SameRegistry s t) : EntriesStay s t := by
  unfold EntriesStay
  rw [h.regCount, h.ent]
  exact ⟨le_rfl, fun _ _ => rfl⟩

theorem EntriesStay.addMessage (s : State) (m : Message) : EntriesStay s (s.addMessage m) := by
  rcases s.addMessage_cases m with ⟨i, hi, h⟩ | ⟨-, h⟩ <;> rw [h]
  · refine ⟨?_, fun k hk => ?_⟩
    · simp only [State.respond_regCount, State.appendAt_regCount, BitVec.toNat_ofNat]
      omega
    · rw [State.respond_ent, State.appendAt_ent, Vector.getElem_set_ne]
      omega
  · exact .of_same (.respond _ _ _)

/-- Settles O54: of the operations left only an append touches the registry, at the index behind the present
entries. -/
theorem presentEntriesStay : Obligations.PresentEntriesStay := by
  intro i s t hload hsetup herase hrst h
  rcases (Effect.of_exec h).registry hrst with hsame | ⟨-, -, hi, -⟩ | ⟨hi, -⟩ | ⟨u, m, hu, rfl⟩
  · exact EntriesStay.of_same hsame
  · exact (hi.elim hload hsetup).elim
  · exact absurd hi herase
  · have hstay := EntriesStay.addMessage u m
    unfold EntriesStay at hstay
    rwa [hu.regCount, hu.ent] at hstay

/-! ### Store accesses and responses -/

/-- Settles O57: the operations that reach the store port are the ones left out, the learn hook among them. -/
theorem operationsWithoutStoreAccess : Obligations.OperationsWithoutStoreAccess := by
  intro i s t h hfires hload hsetup herase hadd hlearn
  cases Effect.of_exec h with
  | edgeTaken hready =>
    rw [State.learnHook_of_not_fires hready (hfires _ _ rfl)]
    simp
  | setup => exact absurd rfl hsetup
  | loaded => exact absurd rfl hload
  | added m => exact absurd rfl (hadd m)
  | learned => exact absurd rfl (hlearn _)
  | erased => exact absurd rfl herase
  | _ => exact ⟨rfl, rfl⟩

/-- An `ADD` answers once, stored or not (42_registry.md R195, R196). -/
theorem State.addMessage_responses (s : State) (m : Message) :
    ∃ r, (s.addMessage m).responses = s.responses ++ [r] := by
  rcases s.addMessage_cases m with ⟨i, -, h⟩ | ⟨-, h⟩ <;> rw [h]
  · exact ⟨_, by rw [State.respond_responses, State.appendAt_responses]⟩
  · exact ⟨_, s.respond_responses _ _⟩

/-- Settles O44: a `WAIT` or `LEARN` with no message ready only waits, and the effect of every other command ends
in one answer. -/
theorem commandsRespondOnce : Obligations.CommandsRespondOnce := by
  intro i s t hport h
  refine ⟨fun ⟨hready, hi⟩ => ?silent, fun hno => ?answers⟩
  case silent =>
    rcases hi with rfl | ⟨u, rfl⟩
    · rw [exec_wait_of_not_ready hready] at h; cases h
      rfl
    · rw [exec_learn_of_not_ready hready] at h; cases h
      rfl
  case answers =>
    cases Effect.of_exec h with
    | answered ok data => exact ⟨_, rfl⟩
    | setup => exact ⟨_, rfl⟩
    | taken => exact ⟨_, rfl⟩
    | waitAnswered => exact ⟨_, rfl⟩
    | waitHeld hready => exact absurd ⟨hready, .inl rfl⟩ hno
    | loaded => exact ⟨_, rfl⟩
    | added m => exact s.addMessage_responses m
    | learned => exact s.messageTaken.addMessage_responses s.buf
    | learnStarted hready => exact absurd ⟨hready, .inr ⟨_, rfl⟩⟩ hno
    | erased => exact ⟨_, s.afterErase_responses⟩
    | edgeDropped => cases hport
    | edgeTaken => cases hport
    | learnEnded => cases hport
    | tmoIgnored => cases hport
    | reset => cases hport

end Sys2Proof.Machine
end

section
/-! PROOFS. Independence: the registry's operations and an edge (42_registry.md R206), and the bytes of `buf` not
yet collected (10_state.md R28, R45). -/

namespace Sys2Proof.Machine

/-! ### The registry's side of the state -/

/-- `s` with the registry's side of `o`: the working copy, the store and what is put on the two output ports. -/
def State.withRegistryOf (s o : State) : State :=
  { s with
    regCount := o.regCount
    ent := o.ent
    regCorrupt := o.regCorrupt
    store := o.store
    storeTrace := o.storeTrace
    responses := o.responses }

theorem State.withRegistryOf_self (s : State) : s.withRegistryOf s = s := rfl

/-- `F` reads the configuration and the registry's side alone, and writes the registry's side alone. -/
def RegistryAction (F : State → State) : Prop :=
  ∀ s o : State, s.cfg = o.cfg → F (s.withRegistryOf o) = s.withRegistryOf (F o)

namespace RegistryAction

/-- What such an action leaves alone. -/
theorem eq_withRegistryOf {F : State → State} (hF : RegistryAction F) (s : State) :
    F s = s.withRegistryOf (F s) :=
  hF s s rfl

theorem cfg {F : State → State} (hF : RegistryAction F) (s : State) : (F s).cfg = s.cfg := by
  rw [hF.eq_withRegistryOf s]; rfl

theorem comp {F G : State → State} (hG : RegistryAction G) (hF : RegistryAction F) :
    RegistryAction fun s => G (F s) := by
  intro s o h
  show G (F (s.withRegistryOf o)) = s.withRegistryOf (G (F o))
  rw [hF s o h, hG s (F o) (h.trans (hF.cfg o).symm)]

theorem respond (ok : Bool) (data : BitVec 80) : RegistryAction fun s => s.respond ok data :=
  fun _ _ _ => rfl

theorem memWrite (a : Offset) (v : Byte) : RegistryAction fun s => s.memWrite a v := by
  intro s o h
  simp only [State.memWrite, State.withRegistryOf, h]

theorem memWrites (ws : List (Offset × Byte)) : RegistryAction fun s => s.memWrites ws := by
  induction ws with
  | nil => exact fun _ _ _ => rfl
  | cons w ws ih => exact ih.comp (memWrite w.1 w.2)

theorem reload : RegistryAction State.reload := by
  intro s o h
  have hbyte : ∀ a, (s.withRegistryOf o).storeByte a = o.storeByte a := fun a =>
    State.storeByte_congr (s := o) (t := s.withRegistryOf o) rfl h a
  have hcorrupt : (s.withRegistryOf o).storedCountCorrupt = o.storedCountCorrupt := by
    simp only [State.storedCountCorrupt, hbyte]
  have hcount : (s.withRegistryOf o).storedCount = o.storedCount := by
    simp only [State.storedCount, hcorrupt, hbyte]
  have hent : (s.withRegistryOf o).storedEntry = o.storedEntry := by
    funext i; simp only [State.storedEntry, hbyte]
  unfold State.reload
  rw [hcorrupt, hcount, hent]
  rfl

theorem setEntry (i : EntryIndex) (e : Entry) :
    RegistryAction fun s => { s with ent := s.ent.set i e } := fun _ _ _ => rfl

theorem setCount (c : BitVec 3) : RegistryAction fun s => { s with regCount := c } := fun _ _ _ => rfl

theorem appendAt (i : EntryIndex) (m : Message) : RegistryAction fun s => s.appendAt i m :=
  (memWrite 0 _).comp ((setCount _).comp ((memWrites (slotWrites i m)).comp (setEntry i (entryOfMessage m))))

theorem addMessage (m : Message) : RegistryAction fun s => s.addMessage m := by
  intro s o h
  show (s.withRegistryOf o).addMessage m = s.withRegistryOf (o.addMessage m)
  rcases o.addMessage_cases m with ⟨i, hi, ho⟩ | ⟨hfull, ho⟩ <;> rw [ho]
  · have hroom : (s.withRegistryOf o).regCount.toNat = i.val := hi.symm
    rw [State.addMessage_of_room _ hroom]
    exact ((respond true (indexData i)).comp (appendAt i m)) s o h
  · have hfull' : 6 ≤ (s.withRegistryOf o).regCount.toNat := hfull
    rw [State.addMessage_of_full _ hfull']
    rfl

theorem afterErase : RegistryAction State.afterErase :=
  (respond true 0).comp (reload.comp (memWrites _))

end RegistryAction

/-- The answer of `LOOKUP m` (`exec_lookup_eq`). -/
def State.afterLookup (m : Message) (s : State) : State :=
  s.respond (s.lookupIndex m).isSome (((s.lookupIndex m).map indexData).getD 0)

theorem exec_lookup_eq (m : Message) (s : State) : exec (.lookup m) s = .next (s.afterLookup m) := by
  unfold State.afterLookup
  cases h : s.lookupIndex m with
  | some i => exact exec_lookup_of_some h
  | none => exact exec_lookup_of_none h

theorem RegistryAction.afterLookup (m : Message) : RegistryAction (State.afterLookup m) :=
  fun _ _ _ => rfl

/-- `RLOAD`, `LOOKUP`, `ADD` and `ERASE` are actions on the registry's side. -/
theorem exec_registryAction {c : Instr}
    (h : c = .rload ∨ (∃ m, c = .lookup m) ∨ (∃ m, c = .add m) ∨ c = .erase) :
    ∃ F, RegistryAction F ∧ ∀ s, exec c s = .next (F s) := by
  rcases h with rfl | ⟨m, rfl⟩ | ⟨m, rfl⟩ | rfl
  · exact ⟨_, (RegistryAction.respond true 0).comp .reload, exec_rload⟩
  · exact ⟨_, .afterLookup m, exec_lookup_eq m⟩
  · exact ⟨_, .addMessage m, fun s => exec_add s m⟩
  · exact ⟨_, .afterErase, exec_erase⟩

/-! ### An edge and the registry's side -/

theorem State.completeByte_withRegistryOf (s o : State) :
    (s.withRegistryOf o).completeByte = s.completeByte.withRegistryOf o := by
  simp only [State.completeByte, State.firstByteMismatch, apply_ite (State.withRegistryOf · o)]
  rfl

theorem State.shiftIn_withRegistryOf (s o : State) (b : Bool) :
    (s.withRegistryOf o).shiftIn b = (s.shiftIn b).withRegistryOf o := by
  simp only [State.shiftIn, apply_ite (State.withRegistryOf · o), ← State.completeByte_withRegistryOf]
  rfl

/-- The decoder's actions neither read nor write the registry's side. -/
theorem State.onPulse_withRegistryOf (s o : State) (c : PulseClass) :
    (s.withRegistryOf o).onPulse c = (s.onPulse c).withRegistryOf o := by
  cases c with
  | ignore => rfl
  | invalid v => rfl
  | shortPulse =>
    simp only [State.onPulse, apply_ite (State.withRegistryOf · o), ← State.shiftIn_withRegistryOf]
    rfl
  | longPulse =>
    simp only [State.onPulse, apply_ite (State.withRegistryOf · o), ← State.shiftIn_withRegistryOf]
    rfl

theorem FiresLearn.withRegistryOf {s o : State} {d : Nat} {l : Level}
    (h : FiresLearn d l (s.withRegistryOf o)) : FiresLearn d l s := by
  obtain ⟨hready, hlearn, hmessage⟩ := h
  refine ⟨hready, hlearn, ?_⟩
  rw [State.onPulse_withRegistryOf] at hmessage
  exact hmessage

/-- An edge that fires no learn is the same under another registry's side. -/
theorem exec_edge_withRegistryOf {s t : State} {d : Nat} {l : Level} (hno : ¬FiresLearn d l s)
    (h : exec (.edge d l) s = .next t) (o : State) :
    exec (.edge d l) (s.withRegistryOf o) = .next (t.withRegistryOf o) := by
  rcases Bool.eq_false_or_eq_true s.messageReady with hready | hready
  · rw [exec_edge_of_ready hready] at h; cases h
    exact exec_edge_of_ready (s := s.withRegistryOf o) hready d l
  · rw [exec_edge_of_not_ready hready, State.learnHook_of_not_fires hready hno] at h; cases h
    have hno' : ¬FiresLearn d l (s.withRegistryOf o) := fun hf => hno hf.withRegistryOf
    rw [exec_edge_of_not_ready (s := s.withRegistryOf o) hready,
      State.learnHook_of_not_fires (s := s.withRegistryOf o) hready hno', State.onPulse_withRegistryOf]
    rfl

/-- Settles O55: the command changes the registry's side alone and reads nothing else, which the edge neither
reads nor writes; so either order gives the edge's state with the command's registry side. -/
theorem registryCommutesWithEdge : Obligations.RegistryCommutesWithEdge := by
  intro c s d l hc hno
  obtain ⟨F, hF, hexec⟩ := exec_registryAction hc
  obtain ⟨b, hb, -⟩ := exec_effect (.edge d l) s
  have hcfg : b.cfg = s.cfg := (Effect.of_exec hb).cfg
  have hb' : b = b.withRegistryOf s := by
    have hself := exec_edge_withRegistryOf hno hb s
    rw [State.withRegistryOf_self, hb] at hself
    exact Host.Outcome.next.inj hself
  refine ⟨F s, b, b.withRegistryOf (F s), hexec s, hb, ?_, ?_⟩
  · rw [hF.eq_withRegistryOf s]
    exact exec_edge_withRegistryOf hno hb _
  · rw [hexec b, ← hF b s hcfg, ← hb']

/-! ### The bytes not yet collected -/

/-- `s` with other bytes in the buffer and another count of free values. -/
def State.withBuffer (s : State) (b : Message) (n : Nat) : State := { s with buf := b, freeCount := n }

/-- The bytes of `b` at the indices below `k` are those of `a`. -/
def AgreeBelow (k : BitVec 4) (a b : Message) : Prop := ∀ i : Fin 10, i.val < k.toNat → b[i] = a[i]

theorem sameButDeadBuffer_iff {s t : State} :
    SameButDeadBuffer s t ↔ ∃ b n, t = s.withBuffer b n ∧ AgreeBelow s.bytesCollected s.buf b := by
  constructor
  · rintro ⟨h, hbuf⟩
    exact ⟨t.buf, t.freeCount, h, hbuf⟩
  · rintro ⟨b, n, rfl, hbuf⟩
    exact ⟨rfl, hbuf⟩

theorem SameButDeadBuffer.withBuffer {s : State} {b : Message} (n : Nat)
    (h : AgreeBelow s.bytesCollected s.buf b) : SameButDeadBuffer s (s.withBuffer b n) :=
  sameButDeadBuffer_iff.2 ⟨b, n, rfl, h⟩

/-- With no byte collected every byte of the buffer is dead. -/
theorem AgreeBelow.zero {k : BitVec 4} (h : k = 0) (a b : Message) : AgreeBelow k a b := by
  intro i hi
  rw [h] at hi
  exact absurd hi (Nat.not_lt_zero _)

/-- With ten bytes collected no byte of the buffer is dead. -/
theorem AgreeBelow.eq {k : BitVec 4} (hk : k = 10) {a b : Message} (h : AgreeBelow k a b) : b = a := by
  rw [hk] at h
  ext1 i hi
  exact h ⟨i, hi⟩ hi

/-- A finished byte is alive in both buffers. -/
theorem AgreeBelow.store {k : BitVec 4} {a b : Message} (h : AgreeBelow k a b) (v : Byte) :
    AgreeBelow (k + 1) (a.setIfInBounds k.toNat v) (b.setIfInBounds k.toNat v) := by
  intro i hi
  have hnext : (k + 1).toNat ≤ k.toNat + 1 := (BitVec.toNat_add k 1).trans_le (Nat.mod_le _ _)
  simp only [Fin.getElem_fin, Vector.getElem_setIfInBounds]
  split
  · rfl
  · exact h i (by omega)

theorem AgreeBelow.setFirst (a b : Message) (v : Byte) : AgreeBelow 1 (a.set 0 v) (b.set 0 v) := by
  intro i hi
  have h0 : i = 0 := Fin.ext (Nat.lt_one_iff.1 hi)
  subst h0
  simp

/-! ### One operation on two such states -/

/-- An action on the registry's side does not see the buffer. -/
theorem RegistryAction.withBuffer {F : State → State} (hF : RegistryAction F) (s : State) (b : Message) (n : Nat) :
    F (s.withBuffer b n) = (F s).withBuffer b n := by
  conv_rhs => rw [hF.eq_withRegistryOf s]
  exact hF (s.withBuffer b n) s rfl

section

variable {s : State} {b : Message} (n : Nat) (h : AgreeBelow s.bytesCollected s.buf b)
include h

theorem SameButDeadBuffer.registryAction {F : State → State} (hF : RegistryAction F) :
    SameButDeadBuffer (F s) (F (s.withBuffer b n)) := by
  rw [hF.withBuffer]
  apply SameButDeadBuffer.withBuffer
  rw [hF.eq_withRegistryOf s]
  exact h

theorem SameButDeadBuffer.respond (ok : Bool) (data : BitVec 80) :
    SameButDeadBuffer (s.respond ok data) ((s.withBuffer b n).respond ok data) :=
  .registryAction n h (.respond ok data)

/-- The buffer of a ready message has no dead byte (10_state.md R30 (c)). -/
theorem AgreeBelow.eq_of_ready (hs : DecoderInv s) (hready : s.messageReady = true) : b = s.buf :=
  AgreeBelow.eq (hs.ready hready).2.2 h

theorem SameButDeadBuffer.learnFire (hs : DecoderInv s) (hready : s.messageReady = true) :
    SameButDeadBuffer s.learnFire (s.withBuffer b n).learnFire := by
  obtain rfl := h.eq_of_ready hs hready
  have hsame : AgreeBelow s.messageTaken.bytesCollected s.messageTaken.buf s.buf := .zero rfl _ _
  exact .registryAction n hsame (.addMessage s.buf)

theorem SameButDeadBuffer.learnHook (hs : DecoderInv s) :
    SameButDeadBuffer s.learnHook (s.withBuffer b n).learnHook := by
  rcases s.learnHook_cases with ⟨hl, hr, hs'⟩ | ⟨hno, hs'⟩ <;> rw [hs']
  · rw [State.learnHook_of_ready (s := s.withBuffer b n) hl hr]
    exact .learnFire n h hs hr
  · have ht : (s.withBuffer b n).learnHook = s.withBuffer b n := by
      rcases hno with hl | hr
      · exact State.learnHook_of_not_pending (s := s.withBuffer b n) hl
      · exact State.learnHook_of_not_ready (s := s.withBuffer b n) hr
    rw [ht]
    exact .withBuffer n h

theorem SameButDeadBuffer.storeFinishedByte :
    SameButDeadBuffer s.storeFinishedByte (s.withBuffer b n).storeFinishedByte :=
  .withBuffer (s := s.storeFinishedByte) n (h.store s.byteAccum)

end

/-- What `complete_byte()` does in `s`, as an action: it is chosen by the byte, its index and the configuration
(`completeByte_eq_completion`). -/
def State.completion (s : State) : State → State :=
  if s.bytesCollected = 0 ∧ s.cfg.sentinelMode ≠ .off ∧ s.byteAccum ≠ s.cfg.sentinel then
    if s.cfg.sentinelMode = .recover ∧ s.byteAccum = s.cfg.sentinelAlt then State.recover else State.abort
  else if s.bytesCollected + 1 = 10 then fun u => u.storeFinishedByte.messageComplete
  else State.storeFinishedByte

theorem State.completeByte_eq_completion (s : State) : s.completeByte = s.completion s := by
  simp only [State.completion, ite_apply]
  rfl

theorem State.completion_withBuffer (s : State) (b : Message) (n : Nat) :
    (s.withBuffer b n).completion = s.completion := rfl

section

variable {s : State} {b : Message} (n : Nat) (h : AgreeBelow s.bytesCollected s.buf b)
include h

theorem SameButDeadBuffer.completeByte : SameButDeadBuffer s.completeByte (s.withBuffer b n).completeByte := by
  rw [s.completeByte_eq_completion, State.completeByte_eq_completion, State.completion_withBuffer,
    State.completion]
  split_ifs
  · exact .withBuffer (s := s.recover) n (.setFirst s.buf b s.cfg.sentinel)
  · exact .withBuffer (s := s.abort) n (.zero rfl s.buf b)
  · exact .withBuffer (s := s.storeFinishedByte.messageComplete) n (h.store s.byteAccum)
  · exact .storeFinishedByte n h

theorem SameButDeadBuffer.shiftIn (v : Bool) :
    SameButDeadBuffer (s.shiftIn v) ((s.withBuffer b n).shiftIn v) := by
  by_cases h8 : s.bitCount + 1 = 8
  · rw [s.shiftIn_of_eq v h8, (s.withBuffer b n).shiftIn_of_eq v h8]
    exact .completeByte (s := s.byteEnded v) n h
  · rw [s.shiftIn_of_ne v h8, (s.withBuffer b n).shiftIn_of_ne v h8]
    exact .withBuffer (s := s.shiftBit v) n h

/-- A pulse is a violation, a marker or a data bit by the flags alone. -/
theorem SameButDeadBuffer.onPulse (c : PulseClass) :
    SameButDeadBuffer (s.onPulse c) ((s.withBuffer b n).onPulse c) := by
  rcases s.onPulse_cases c with ⟨rfl, hs⟩ | ⟨v, hc, hs⟩ | ⟨rfl, hp, hs⟩ | ⟨rfl, hp, hb, hs⟩ |
      ⟨v, rfl, hp, hb, hs⟩ <;> rw [hs]
  · exact .withBuffer n h
  · have ht : (s.withBuffer b n).onPulse c = (s.withBuffer b n).raiseViolation v := by
      rcases hc with rfl | ⟨rfl, rfl, hno⟩
      · rfl
      · exact State.onPulse_longPulse_of_no_byte (s := s.withBuffer b n) hno
    rw [ht]
    exact .withBuffer (s := s.raiseViolation v) n (.zero rfl s.buf b)
  · have ht : (s.withBuffer b n).onPulse .shortPulse = (s.withBuffer b n).startPacket := by
      simp [State.onPulse, State.withBuffer, hp]
    rw [ht]
    exact .withBuffer (s := s.startPacket) n (.zero rfl s.buf b)
  · have ht : (s.withBuffer b n).onPulse .shortPulse = (s.withBuffer b n).startByte := by
      simp [State.onPulse, State.withBuffer, hp, hb]
    rw [ht]
    exact .withBuffer (s := s.startByte) n h
  · have ht : (s.withBuffer b n).onPulse (if v then .shortPulse else .longPulse) =
        (s.withBuffer b n).shiftIn v := by
      cases v <;> simp [State.onPulse, State.withBuffer, hp, hb]
    rw [ht]
    exact .shiftIn n h v

theorem exec_edge_sameButDeadBuffer (hs : DecoderInv s) (d : Nat) (l : Level) :
    ∃ s' t', exec (.edge d l) s = .next s' ∧ exec (.edge d l) (s.withBuffer b n) = .next t' ∧
      SameButDeadBuffer s' t' := by
  rcases Bool.eq_false_or_eq_true s.messageReady with hr | hr
  · exact ⟨_, _, exec_edge_of_ready hr d l, exec_edge_of_ready (s := s.withBuffer b n) hr d l, .withBuffer n h⟩
  · refine ⟨_, _, exec_edge_of_not_ready hr d l, exec_edge_of_not_ready (s := s.withBuffer b n) hr d l, ?_⟩
    obtain ⟨b', n', hpulse, hagree⟩ :=
      sameButDeadBuffer_iff.1 (SameButDeadBuffer.onPulse n h (classify s.cfg d l))
    show SameButDeadBuffer _ ((s.withBuffer b n).onPulse (classify s.cfg d l)).learnHook
    rw [hpulse]
    exact .learnHook n' hagree (hs.onPulse hr _)

/-- Every operation takes two states that differ in dead bytes to two such states. -/
theorem exec_sameButDeadBuffer (hs : DecoderInv s) (i : Instr) :
    ∃ s' t', exec i s = .next s' ∧ exec i (s.withBuffer b n) = .next t' ∧ SameButDeadBuffer s' t' := by
  have action : ∀ {c : Instr} {F : State → State}, RegistryAction F → (∀ u, exec c u = .next (F u)) →
      ∃ s' t', exec c s = .next s' ∧ exec c (s.withBuffer b n) = .next t' ∧ SameButDeadBuffer s' t' :=
    fun hF hexec => ⟨_, _, hexec s, hexec _, .registryAction n h hF⟩
  cases i with
  | edge d l => exact exec_edge_sameButDeadBuffer n h hs d l
  | setup =>
    have hload : RegistryAction fun u => u.reload.respond true 0 := (RegistryAction.respond true 0).comp .reload
    exact ⟨_, _, exec_setup s, exec_setup _, .registryAction (s := s.setupCleared) n (.zero rfl s.buf b) hload⟩
  | poll => exact ⟨_, _, exec_poll s, exec_poll _, .respond n h _ _⟩
  | take =>
    rcases Bool.eq_false_or_eq_true s.messageReady with hr | hr
    · obtain rfl := h.eq_of_ready hs hr
      exact ⟨_, _, exec_take_of_ready hr, exec_take_of_ready (s := s.withBuffer s.buf n) hr,
        .withBuffer (s := s.afterTake) n (.zero rfl _ _)⟩
    · exact ⟨_, _, exec_take_of_not_ready hr, exec_take_of_not_ready (s := s.withBuffer b n) hr,
        .respond n h _ _⟩
  | wait =>
    rcases Bool.eq_false_or_eq_true s.messageReady with hr | hr
    · exact ⟨_, _, exec_wait_of_ready hr, exec_wait_of_ready (s := s.withBuffer b n) hr,
        .withBuffer (s := { s.respond true 0 with consumerWaiting := false }) n h⟩
    · exact ⟨_, _, exec_wait_of_not_ready hr, exec_wait_of_not_ready (s := s.withBuffer b n) hr,
        .withBuffer (s := { s with consumerWaiting := true }) n h⟩
  | rdcnt k => exact ⟨_, _, exec_rdcnt k s, exec_rdcnt k _, .respond n h _ _⟩
  | rdstat => exact ⟨_, _, exec_rdstat s, exec_rdstat _, .respond n h _ _⟩
  | rload => exact action ((RegistryAction.respond true 0).comp .reload) exec_rload
  | lookup m => exact action (.afterLookup m) (exec_lookup_eq m)
  | add m => exact action (.addMessage m) fun u => exec_add u m
  | learn u =>
    rcases Bool.eq_false_or_eq_true s.messageReady with hr | hr
    · exact ⟨_, _, exec_learn_of_ready hr u, exec_learn_of_ready (s := s.withBuffer b n) hr u,
        .learnFire n h hs hr⟩
    · exact ⟨_, _, exec_learn_of_not_ready hr u, exec_learn_of_not_ready (s := s.withBuffer b n) hr u,
        .withBuffer (s := { s with learnPending := true, learnStarts := s.learnStarts ++ [u] }) n h⟩
  | erase => exact action .afterErase exec_erase
  | tmo =>
    rcases Bool.eq_false_or_eq_true s.learnPending with hl | hl
    · exact ⟨_, _, exec_tmo_of_pending hl, exec_tmo_of_pending (s := s.withBuffer b n) hl,
        .respond (s := { s with learnPending := false }) n h _ _⟩
    · exact ⟨_, _, exec_tmo_of_not_pending hl, exec_tmo_of_not_pending (s := s.withBuffer b n) hl,
        .withBuffer n h⟩
  | rst => exact ⟨_, _, exec_rst s, exec_rst _, rfl, AgreeBelow.zero rfl _ _⟩
  | reserved0 => exact ⟨_, _, exec_reserved0 s, exec_reserved0 _, .respond n h _ _⟩
  | reserved7 => exact ⟨_, _, exec_reserved7 s, exec_reserved7 _, .respond n h _ _⟩
  | reservedD => exact ⟨_, _, exec_reservedD s, exec_reservedD _, .respond n h _ _⟩
  | reservedE => exact ⟨_, _, exec_reservedE s, exec_reservedE _, .respond n h _ _⟩
  | reservedF => exact ⟨_, _, exec_reservedF s, exec_reservedF _, .respond n h _ _⟩

end

/-- The fetch does not see the buffer. -/
theorem State.fetch_withBuffer (s : State) (b : Message) (n : Nat) :
    (s.withBuffer b n).fetch = s.fetch.map fun x => (x.1, x.2.withBuffer b n) := by
  have hnext : nextPresented (s.withBuffer b n).consumerFree (s.withBuffer b n).inputs =
      nextPresented s.consumerFree s.inputs := rfl
  unfold State.fetch
  rw [hnext]
  cases nextPresented s.consumerFree s.inputs <;> rfl

/-- Settles O56: the fetch and every operation keep the two states apart by dead bytes alone; a byte is read
only where ten are collected, and a byte beyond index 0 is stored where the count grows past it. -/
theorem deadBufferUnobservable : Obligations.DeadBufferUnobservable := by
  intro s t hs hst
  obtain ⟨b, n, rfl, h⟩ := sameButDeadBuffer_iff.1 hst
  rcases step_cases s with ⟨hw, hstep⟩ | ⟨hw, hf, hstep⟩ | ⟨p, u, i, hw, hf, hd, hstep⟩ |
      ⟨p, u, e, hw, hf, hd, hstep⟩
  · have ht : step (s.withBuffer b n) = exec .wait (s.withBuffer b n) := if_pos hw
    rw [hstep, ht]
    exact exec_sameButDeadBuffer n h hs .wait
  · have ht := step_of_fetch_none (s := s.withBuffer b n) hw (by rw [State.fetch_withBuffer, hf]; rfl)
    exact ⟨_, _, hstep, ht, hst⟩
  · have ht := step_of_fetch (s := s.withBuffer b n) hw (by rw [State.fetch_withBuffer, hf]; rfl) hd
    obtain ⟨left, -, rfl⟩ := s.fetch_eq_some hf
    rw [hstep, ht]
    exact exec_sameButDeadBuffer (s := { s with inputs := left }) n h
      (hs.of_same ⟨rfl, rfl, rfl, rfl, rfl, rfl, rfl⟩) i
  · have ht := step_of_fetch_error (s := s.withBuffer b n) hw (by rw [State.fetch_withBuffer, hf]; rfl) hd
    obtain ⟨left, -, rfl⟩ := s.fetch_eq_some hf
    exact ⟨_, _, hstep, ht, .withBuffer (s := { s with inputs := left }) n h⟩

end Sys2Proof.Machine
end

section
/-! PROOFS. Whole frames (41_decoder.md section 5): edges are symbols, symbols are bytes, and ten bytes are the
message; a frame that lost one of its first pulses shows `SENTINEL_ALT` as byte 0. -/

namespace Sys2Proof.Machine

/-! ### Edges are symbols -/

/-- What the decoder does on a symbol, with no learn pending: nothing once a message is ready, else its action on
the pulse that carries the symbol (30_encoding.md R102; `feed_symbolEdges`). -/
def State.onSymbol (s : State) (b : Bool) : State :=
  if s.messageReady then s else s.onPulse (if b then .shortPulse else .longPulse)

/-- What the decoder does on a list of symbols. -/
def State.onSymbols (s : State) (bs : List Bool) : State := bs.foldl State.onSymbol s

theorem State.onSymbols_nil (s : State) : s.onSymbols [] = s := rfl

theorem State.onSymbols_cons (s : State) (b : Bool) (bs : List Bool) :
    s.onSymbols (b :: bs) = (s.onSymbol b).onSymbols bs := rfl

theorem State.onSymbols_append (s : State) (bs bs' : List Bool) :
    s.onSymbols (bs ++ bs') = (s.onSymbols bs).onSymbols bs' := List.foldl_append

theorem State.onSymbol_of_ready {s : State} (h : s.messageReady = true) (b : Bool) : s.onSymbol b = s :=
  if_pos h

theorem State.onSymbol_of_not_ready {s : State} (h : s.messageReady = false) (b : Bool) :
    s.onSymbol b = s.onPulse (if b then .shortPulse else .longPulse) :=
  if_neg (by simp [h])

@[simp] theorem State.onSymbol_cfg (s : State) (b : Bool) : (s.onSymbol b).cfg = s.cfg := by
  unfold State.onSymbol; split <;> simp

@[simp] theorem State.onSymbol_learnPending (s : State) (b : Bool) :
    (s.onSymbol b).learnPending = s.learnPending := by
  unfold State.onSymbol; split <;> simp

/-- An edge under the glitch limit is no symbol, whether a message is ready or not. -/
theorem exec_edge_of_glitch {s : State} {d : Nat} (h : d < s.cfg.shortMin) (l : Level) :
    exec (.edge d l) s = .next s := by
  rcases Bool.eq_false_or_eq_true s.messageReady with hr | hr
  · exact exec_edge_of_ready hr d l
  · exact exec_edge_of_ignore hr (classify_of_glitch h l)

/-- An edge that carries a symbol is that symbol, with no learn pending. -/
theorem exec_edge_of_symbol {s : State} (hl : s.learnPending = false) {b : Bool} {d : Nat} {l : Level}
    (h : SymbolEdge s.cfg b d l) : exec (.edge d l) s = .next (s.onSymbol b) := by
  rcases Bool.eq_false_or_eq_true s.messageReady with hr | hr
  · rw [exec_edge_of_ready hr, State.onSymbol_of_ready hr]
  · rw [exec_edge_of_not_ready hr, classify_symbol h, State.onSymbol_of_not_ready hr,
      State.learnHook_of_not_pending (by simpa using hl)]

theorem feed_cons {s t : State} {e : Edge} (h : exec (.edge e.1 e.2) s = .next t) (es : List Edge) :
    feed (e :: es) s = feed es t := by
  simp only [feed, h]

/-- A 1 after a LOW line with gap `tg` (a glitch), or directly after a HIGH one. -/
theorem feed_bit1Edges {u : Timing} {s : State} (hfits : u.Fits s.cfg) (hl : s.learnPending = false)
    (lvl : Level) (es : List Edge) :
    feed (bit1Edges u u.tg lvl ++ es) s = feed es (s.onSymbol true) := by
  have hone : exec (.edge u.t1 .low) s = .next (s.onSymbol true) :=
    exec_edge_of_symbol hl (.inl ⟨rfl, rfl, hfits.one⟩)
  cases lvl with
  | low =>
    exact (feed_cons (e := (u.tg, .high)) (exec_edge_of_glitch hfits.gapIn _) _).trans
      (feed_cons (e := (u.t1, .low)) hone es)
  | high => exact feed_cons (e := (u.t1, .low)) hone es

/-- A 0 after a LOW line, or after a HIGH one with a stub (a glitch). -/
theorem feed_bit0Edges {u : Timing} {s : State} (hwf : s.cfg.wf) (hfits : u.Fits s.cfg)
    (hl : s.learnPending = false) (lvl : Level) (es : List Edge) :
    feed (bit0Edges u lvl ++ es) s = feed es (s.onSymbol false) := by
  have hzero : exec (.edge u.t0 .high) s = .next (s.onSymbol false) :=
    exec_edge_of_symbol hl (.inr ⟨rfl, rfl, hwf, hfits.zero⟩)
  cases lvl with
  | low => exact feed_cons (e := (u.t0, .high)) hzero es
  | high =>
    exact (feed_cons (e := (u.ts, .low)) (exec_edge_of_glitch hfits.stub _) _).trans
      (feed_cons (e := (u.t0, .high)) hzero es)

/-- The edges of symbols inside a frame are those symbols. -/
theorem feed_symbolEdges {u : Timing} {s : State} (hwf : s.cfg.wf) (hfits : u.Fits s.cfg)
    (hl : s.learnPending = false) (bs : List Bool) (lvl : Level) :
    feed (symbolEdges u lvl bs) s = .next (s.onSymbols bs) := by
  induction bs generalizing s lvl with
  | nil => cases lvl <;> rfl
  | cons b bs ih =>
    have hrest : ∀ lvl', feed (symbolEdges u lvl' bs) (s.onSymbol b) = .next (s.onSymbols (b :: bs)) :=
      ih (by simpa using hwf) (by simpa using hfits) (by simpa using hl)
    cases b with
    | true => exact (feed_bit1Edges hfits hl lvl _).trans (hrest .low)
    | false => exact (feed_bit0Edges hwf hfits hl lvl _).trans (hrest .high)

/-- The state in which the gap before a frame and the start marker leave the decoder. -/
def State.frameStarted (s : State) : State := (s.raiseViolation .band).startPacket

/-- A transmission: the gap is out of band and aborts what was under way, the start marker starts a packet, and
the rest are symbols inside it. -/
theorem feed_burstEdges {u : Timing} {s : State} (hwf : s.cfg.wf) (hfits : u.Fits s.cfg)
    (hready : s.messageReady = false) (hl : s.learnPending = false) (bs : List Bool) :
    feed (burstEdges u .low (true :: bs)) s = .next (s.frameStarted.onSymbols bs) := by
  have hgap : exec (.edge u.gap .high) s = .next (s.raiseViolation .band) :=
    exec_edge_of_onPulse hready
      (s.onPulse_of_eq_invalid (classify_outOfBand ⟨hwf, .inr hfits.gapBefore⟩ .high)) hready
  have hmarker : exec (.edge u.t1 .low) (s.raiseViolation .band) = .next s.frameStarted := by
    obtain ⟨t, ht, -, rfl⟩ := shortPulseStartsPacket (s.raiseViolation .band) u.t1
      (State.phase_of_cleared (.raiseViolation hready .band)) hfits.one
    exact ht
  calc feed (burstEdges u .low (true :: bs)) s
      = feed ((u.t1, .low) :: symbolEdges u .low bs) (s.raiseViolation .band) :=
        feed_cons (e := (u.gap, .high)) hgap _
    _ = feed (symbolEdges u .low bs) s.frameStarted := feed_cons (e := (u.t1, .low)) hmarker _
    _ = .next (s.frameStarted.onSymbols bs) := feed_symbolEdges (s := s.frameStarted) hwf hfits hl bs .low

/-! ### Symbols are bytes -/

/-- The eight data bits of `BYTE v`, behind its marker (30_encoding.md R101). -/
def byteBits (v : Byte) : List Bool :=
  [v.getLsbD 7, v.getLsbD 6, v.getLsbD 5, v.getLsbD 4, v.getLsbD 3, v.getLsbD 2, v.getLsbD 1, v.getLsbD 0]

theorem byteSymbols_eq (v : Byte) : byteSymbols v = true :: byteBits v := rfl

/-- The first seven of the eight data bits. -/
def leadingBits (v : Byte) : List Bool :=
  [v.getLsbD 7, v.getLsbD 6, v.getLsbD 5, v.getLsbD 4, v.getLsbD 3, v.getLsbD 2, v.getLsbD 1]

theorem byteBits_eq (v : Byte) : byteBits v = leadingBits v ++ [v.getLsbD 0] := rfl

theorem getLsbD_shiftByte (acc : Byte) (b : Bool) (i : Nat) :
    (shiftByte acc b).getLsbD i = if i = 0 then b else decide (i < 8) && acc.getLsbD (i - 1) := by
  unfold shiftByte
  rw [BitVec.getLsbD_concat]
  split
  · rfl
  · next h =>
    rw [BitVec.getLsbD_extractLsb', Nat.zero_add]
    congr 1
    exact decide_eq_decide.2 (by omega)

/-- Eight bits shifted in, the top one first, are the byte, whatever the accumulator held. -/
theorem shiftByte_leadingBits (acc v : Byte) :
    shiftByte ((leadingBits v).foldl shiftByte acc) (v.getLsbD 0) = v := by
  apply BitVec.eq_of_getLsbD_eq
  intro i hi
  interval_cases i <;> simp only [leadingBits, List.foldl_cons, List.foldl_nil, getLsbD_shiftByte] <;> rfl

/-- Data bits that do not finish the byte are shifted in and counted. -/
theorem State.onSymbols_unfinished {s : State} (hp : s.phase = .byteInProgress) (bs : List Bool)
    (h : s.bitCount.toNat + bs.length ≤ 7) : s.onSymbols bs = { s with
      bitCount := s.bitCount + BitVec.ofNat 4 bs.length
      byteAccum := bs.foldl shiftByte s.byteAccum } := by
  induction bs generalizing s with
  | nil => simp [State.onSymbols_nil]
  | cons b bs ih =>
    rw [List.length_cons] at h
    obtain ⟨hready, -⟩ := State.phase_eq_byteInProgress.1 hp
    have hbit : s.onSymbol b = s.shiftBit b := by
      rw [State.onSymbol_of_not_ready hready, State.onPulse_symbol hp, State.shiftIn_unfinished (by omega)]
    have hcount : (s.shiftBit b).bitCount.toNat = s.bitCount.toNat + 1 := toNat_add_one (by omega)
    have hsum : s.bitCount + 1 + BitVec.ofNat 4 bs.length = s.bitCount + BitVec.ofNat 4 (bs.length + 1) := by
      rw [Nat.add_comm, BitVec.ofNat_add, BitVec.add_assoc]; rfl
    rw [State.onSymbols_cons, hbit, ih (s := s.shiftBit b) hp (by omega), List.length_cons, ← hsum]
    rfl

/-- `s` with seven bits of a byte shifted in. -/
def State.withSevenBits (s : State) (acc : Byte) : State := { s with bitCount := 7, byteAccum := acc }

/-- Eight data bits from the start of a byte are one `shift_in()` that finishes it. -/
theorem State.onSymbols_byteBits {s : State} (hp : s.phase = .byteInProgress) (h0 : s.bitCount = 0) (v : Byte) :
    ∃ acc, s.onSymbols (byteBits v) = (s.withSevenBits acc).shiftIn (v.getLsbD 0) ∧
      shiftByte acc (v.getLsbD 0) = v := by
  refine ⟨(leadingBits v).foldl shiftByte s.byteAccum, ?_, shiftByte_leadingBits _ v⟩
  obtain ⟨hready, -⟩ := State.phase_eq_byteInProgress.1 hp
  have hseven : s.onSymbols (leadingBits v) = s.withSevenBits ((leadingBits v).foldl shiftByte s.byteAccum) := by
    rw [State.onSymbols_unfinished hp _ (by rw [h0]; exact Nat.le_refl 7), h0]
    rfl
  rw [byteBits_eq, State.onSymbols_append, hseven, State.onSymbols_cons, State.onSymbols_nil,
    State.onSymbol_of_not_ready (s := s.withSevenBits _) hready, State.onPulse_symbol (s := s.withSevenBits _) hp]

/-! ### Bytes are the message -/

/-- A packet of message `m` is under way with its first `k` bytes collected. -/
structure Underway (m : Message) (k : Nat) (s : State) : Prop where
  ready : s.messageReady = false
  packet : s.packetStarted = true
  count : s.bytesCollected = BitVec.ofNat 4 k
  bytes : ∀ i : Fin 10, i.val < k → s.buf[i] = m[i]

/-- The marker of byte `k` is due. -/
structure MarkerDue (m : Message) (k : Nat) (s : State) : Prop extends Underway m k s where
  noByte : s.byteStarted = false

/-- The first data bit of byte `k` is due. -/
structure BitsDue (m : Message) (k : Nat) (s : State) : Prop extends Underway m k s where
  inByte : s.byteStarted = true
  bits : s.bitCount = 0

/-- The message is ready and it is `m`. -/
def Delivered (m : Message) (s : State) : Prop := s.messageReady = true ∧ s.buf = m

theorem markerDue_frameStarted {s : State} (h : s.messageReady = false) (m : Message) :
    MarkerDue m 0 s.frameStarted :=
  ⟨⟨h, rfl, rfl, fun _ hi => absurd hi (Nat.not_lt_zero _)⟩, rfl⟩

theorem BitsDue.phase {m : Message} {k : Nat} {s : State} (h : BitsDue m k s) : s.phase = .byteInProgress :=
  State.phase_eq_byteInProgress.2 ⟨h.ready, h.packet, h.inByte⟩

/-- A marker where one is due starts the byte. -/
theorem MarkerDue.marker {m : Message} {k : Nat} {s : State} (h : MarkerDue m k s) :
    BitsDue m k (s.onSymbol true) := by
  have hp : s.phase = .packetStarted := State.phase_eq_packetStarted.2 ⟨h.ready, h.packet, h.noByte⟩
  have hs : s.onSymbol true = s.startByte := by
    rw [State.onSymbol_of_not_ready h.ready]
    exact State.onPulse_shortPulse_of_packetStarted hp
  rw [hs]
  exact ⟨⟨h.ready, h.packet, h.count, h.bytes⟩, rfl, rfl⟩

/-- The bits of byte `k` put it behind the bytes collected, if it passes the check and is not the last. -/
theorem BitsDue.byte {m : Message} {k : Nat} {s : State} (h : BitsDue m k s) (hk : k < 9)
    (hpass : k = 0 → s.cfg.sentinelMode = .off ∨ m[0] = s.cfg.sentinel) :
    MarkerDue m (k + 1) (s.onSymbols (byteBits m[k])) := by
  obtain ⟨acc, hsymbols, hv⟩ := State.onSymbols_byteBits h.phase h.bits m[k]
  have hcount : s.bytesCollected.toNat = k := by
    rw [h.count, BitVec.toNat_ofNat]; omega
  have hpass' : s.bytesCollected = 0 →
      s.cfg.sentinelMode = .off ∨ shiftByte acc (m[k].getLsbD 0) = s.cfg.sentinel := by
    intro h0
    have hk0 : k = 0 := by rw [← hcount, h0]; rfl
    subst hk0
    rw [hv]
    exact hpass rfl
  have hten : s.bytesCollected ≠ 9 := fun h9 => by
    rw [h9] at hcount
    exact absurd hcount (by simp; omega)
  have hstored := State.shiftIn_stored (s := s.withSevenBits acc) rfl (m[k].getLsbD 0) hpass' hten
  rw [hsymbols, hstored]
  refine ⟨⟨h.ready, h.packet, ?count, fun i hi => ?bytes⟩, rfl⟩
  case count => exact (congrArg (· + 1) h.count).trans (BitVec.ofNat_add k 1).symm
  case bytes =>
    show (s.buf.setIfInBounds s.bytesCollected.toNat (shiftByte acc (m[k].getLsbD 0)))[i] = m[i]
    rw [hv, hcount, Fin.getElem_fin, Vector.getElem_setIfInBounds]
    split
    · next hik => simp [hik]
    · exact h.bytes i (by omega)

/-- The bits of the last byte complete the message. -/
theorem BitsDue.lastByte {m : Message} {s : State} (h : BitsDue m 9 s) :
    Delivered m (s.onSymbols (byteBits m[9])) := by
  obtain ⟨acc, hsymbols, hv⟩ := State.onSymbols_byteBits h.phase h.bits m[9]
  rw [hsymbols, State.shiftIn_tenth (s := s.withSevenBits acc) rfl _ h.count]
  refine ⟨rfl, ?_⟩
  show s.buf.set 9 (shiftByte acc (m[9].getLsbD 0)) = m
  rw [hv]
  ext1 i hi
  rw [Vector.getElem_set]
  split
  · next h9 => subst h9; rfl
  · next h9 => exact h.bytes ⟨i, hi⟩ (by simp only; omega)

/-- A byte 0 that fails the check and equals `SENTINEL_ALT` is repaired; the marker of byte 1 was its last bit. -/
theorem BitsDue.repaired {m : Message} {s : State} (h : BitsDue m 0 s) (hmode : s.cfg.sentinelMode = .recover)
    (hne : s.cfg.sentinelAlt ≠ s.cfg.sentinel) (hm : m[0] = s.cfg.sentinel) :
    BitsDue m 1 (s.onSymbols (byteBits s.cfg.sentinelAlt)) := by
  obtain ⟨acc, hsymbols, hv⟩ := State.onSymbols_byteBits h.phase h.bits s.cfg.sentinelAlt
  have hrepaired := State.shiftIn_repaired (s := s.withSevenBits acc) rfl (s.cfg.sentinelAlt.getLsbD 0) h.count
    hmode (by rw [State.withSevenBits, hv]; exact hne) hv
  rw [hsymbols, hrepaired]
  refine ⟨⟨h.ready, h.packet, rfl, fun i hi => ?_⟩, rfl, rfl⟩
  have hi0 : i = 0 := Fin.ext (Nat.lt_one_iff.1 hi)
  subst hi0
  simpa [State.withSevenBits] using hm.symm

/-- The bytes from index `k` on, markers and bits. -/
def symbolsFrom (m : Message) (k : Nat) : List Bool := (m.toList.drop k).flatMap byteSymbols

theorem symbolsFrom_eq (m : Message) {k : Nat} (hk : k < 10) :
    symbolsFrom m k = true :: (byteBits m[k] ++ symbolsFrom m (k + 1)) := by
  have hlen : k < m.toList.length := by simpa using hk
  rw [symbolsFrom, List.drop_eq_getElem_cons hlen, List.flatMap_cons, byteSymbols_eq]
  simp [symbolsFrom]

theorem symbolsFrom_ten (m : Message) : symbolsFrom m 10 = [] := by
  rw [symbolsFrom, List.drop_eq_nil_of_le (by simp)]; rfl


/-- From the marker of byte `k` on, the rest of the message is delivered. -/
theorem MarkerDue.delivered {m : Message} {k : Nat} {s : State} (h : MarkerDue m k s) (hk : k < 10)
    (hpass : k = 0 → s.cfg.sentinelMode = .off ∨ m[0] = s.cfg.sentinel) :
    Delivered m (s.onSymbols (symbolsFrom m k)) := by
  rw [symbolsFrom_eq m hk, State.onSymbols_cons, State.onSymbols_append]
  rcases Nat.lt_or_ge k 9 with h9 | h9
  · have hnext : MarkerDue m (k + 1) ((s.onSymbol true).onSymbols (byteBits m[k])) :=
      h.marker.byte h9 (by simpa using hpass)
    exact hnext.delivered (by omega) (fun h0 => absurd h0 (Nat.succ_ne_zero k))
  · obtain rfl : k = 9 := by omega
    rw [symbolsFrom_ten]
    exact h.marker.lastByte
termination_by 10 - k

/-- The end marker is dropped, the message being ready (41_decoder.md R151). -/
theorem Delivered.endMarker {m : Message} {s : State} (h : Delivered m s) : Delivered m (s.onSymbols [true]) := by
  rw [State.onSymbols_cons, State.onSymbol_of_ready h.1]
  exact h

theorem frameSymbols_eq (m : Message) : frameSymbols m = true :: (symbolsFrom m 0 ++ [true]) := rfl

/-- Settles O58: the gap aborts and the start marker starts a packet, whatever was under way; ten bytes, of which
the first passes the check, are delivered, and the end marker is dropped. -/
theorem frameRoundTrip : Obligations.FrameRoundTrip := by
  intro s m u hwf hfits hready hl hpass
  have hdelivered : Delivered m (s.frameStarted.onSymbols (symbolsFrom m 0 ++ [true])) := by
    rw [State.onSymbols_append]
    exact ((markerDue_frameStarted hready m).delivered (by omega) fun _ => hpass).endMarker
  obtain ⟨hmessage, hbuf⟩ := hdelivered
  exact ⟨_, feed_burstEdges hwf hfits hready hl _, hmessage, hbuf⟩

/-! ### A lost pulse -/

/-- The start marker, the marker of byte 0 and the first four bits of 0xF6 are all 1, so which of them is lost
cannot be seen: the rest reads as a start marker, the marker and bits of 0xED, and the bits of byte 1. -/
theorem frameSymbols_eraseIdx {m : Message} (hm : m[0] = 0xF6) {k : Nat} (hk : k < 6) :
    (frameSymbols m).eraseIdx k =
      true :: true :: (byteBits 0xED ++ (byteBits m[1] ++ (symbolsFrom m 2 ++ [true]))) := by
  have hframe : frameSymbols m = true :: true :: (byteBits 0xF6 ++
      (true :: (byteBits m[1] ++ (symbolsFrom m 2 ++ [true])))) := by
    rw [frameSymbols_eq, symbolsFrom_eq m (by omega), symbolsFrom_eq m (by omega), hm]
    simp
  rw [hframe]
  interval_cases k <;> rfl

/-- Settles O59: the frame that lost a pulse starts a packet whose byte 0 reads as `SENTINEL_ALT` and is repaired,
its last bit being the marker of byte 1; the bytes from 1 on follow as in a whole frame. -/
theorem frameWithLostPulse : Obligations.FrameWithLostPulse := by
  intro s m u k hwf hfits hready hl hmode hsentinel halt hm hk
  have hbyte0 : BitsDue m 1 ((s.frameStarted.onSymbol true).onSymbols (byteBits 0xED)) := by
    have hrepaired := (markerDue_frameStarted hready m).marker.repaired (by rw [State.onSymbol_cfg]; exact hmode)
      (by rw [State.onSymbol_cfg]; show s.cfg.sentinelAlt ≠ s.cfg.sentinel; rw [hsentinel, halt]; decide)
      (by rw [State.onSymbol_cfg]; exact hm.trans hsentinel.symm)
    rw [State.onSymbol_cfg] at hrepaired
    exact halt ▸ hrepaired
  have hbyte1 : MarkerDue m 2 (((s.frameStarted.onSymbol true).onSymbols (byteBits 0xED)).onSymbols
      (byteBits m[1])) := hbyte0.byte (by omega) (fun h => absurd h (by decide))
  have hdelivered := (hbyte1.delivered (by omega) fun h => absurd h (by decide)).endMarker
  have hfeed := feed_burstEdges hwf hfits hready hl
    (true :: (byteBits 0xED ++ (byteBits m[1] ++ (symbolsFrom m 2 ++ [true]))))
  rw [frameSymbols_eraseIdx hm hk]
  rw [State.onSymbols_cons, State.onSymbols_append, State.onSymbols_append, State.onSymbols_append] at hfeed
  exact ⟨_, hfeed, hdelivered.1, hdelivered.2⟩

end Sys2Proof.Machine
end
